-- ==== Sys2Proof/Word.lean ====
section
/-!
DEFINITION. The word types of the block: bytes, 16-bit operands and results, 48-bit command words
(00_scope.md section 5; 30_encoding.md R101).
-/

namespace Sys2Proof

/-- A byte, `u8` of 00_scope.md section 5. -/
abbrev Byte := BitVec 8

/-- A 16-bit operand or result, `u16` or `s16` of 00_scope.md section 5: which of the two is only a
way of reading the bits (20_memory.md R74). -/
abbrev Half := BitVec 16

/-- A 48-bit command word (30_encoding.md R101). -/
abbrev CmdWord := BitVec 48

end Sys2Proof
end

