-- ==== Sys2Proof/Syntax.lean ====
section
/-!
DEFINITION. The 27 commands of the block, one constructor per row of spec/opcode_table.json
(30_encoding.md R105). Each operand has exactly the width its field use gives it (R102), so every
term is a command some word encodes.
-/

namespace Sys2Proof

/-- A command with its operands. A channel number is the 8-bit `P` field; a byte operand is `A[7:0]`
or `B[7:0]`; other operands are 16 bits. -/
inductive Instr where
  | nop
  | init (addr : Byte)
  | portOpen (p : Byte) (capacity : Half)
  | portClose (p : Byte)
  | rdFault
  | rbPush (p byte : Byte)
  | rbPop (p : Byte)
  | rbPeek (p : Byte) (index : Half)
  | rbSize (p : Byte)
  | rbEmpty (p : Byte)
  | rbFull (p : Byte)
  | msbS (value : Half)
  | lsbS (value : Half)
  | msbU (value : Half)
  | lsbU (value : Half)
  | joinS (msb lsb : Byte)
  | joinU (msb lsb : Byte)
  | crcInit
  | crcByte (byte : Byte)
  | crcRead
  | scan (p : Byte)
  | rdArray (index : Half)
  | rdFlag (index : Half)
  | limit (index : Half) (p : Byte)
  | queue (index value : Half)
  | clearPkt
  | send (p dest : Byte)
  deriving DecidableEq, Repr

end Sys2Proof
end

