-- ==== Sys2Proof/WellFormed.lean ====
section
/-!
DEFINITION. Which command words are well formed, by the match and mask columns of the opcode map
(30_encoding.md R105; spec/opcode_table.json). Every term of `Instr` is well formed by its types;
what can be ill formed is a command word: a free opcode (R106) or a nonzero must-be-zero bit (R103).
The decoder is written from the field uses of R102, not from these columns, so that the two can be
compared.
-/

namespace Sys2Proof

/-- One row of the opcode map: `mask` has a 1 in every bit of the opcode and in every must-be-zero
bit, `pat` is the word with every operand bit 0. -/
structure OpRow where
  mnemonic : String
  pat : CmdWord
  mask : CmdWord
  deriving DecidableEq, Repr

/-- The control rows of the opcode map. -/
def controlRows : List OpRow := [
  { mnemonic := "NOP", pat := 0x000000000000#48, mask := 0xFFFFFFFFFFFF#48 },
  { mnemonic := "INIT", pat := 0x010000000000#48, mask := 0xFFFFFF00FFFF#48 },
  { mnemonic := "PORT_OPEN", pat := 0x020000000000#48, mask := 0xFF000000FFFF#48 },
  { mnemonic := "PORT_CLOSE", pat := 0x030000000000#48, mask := 0xFF00FFFFFFFF#48 },
  { mnemonic := "RD_FAULT", pat := 0x040000000000#48, mask := 0xFFFFFFFFFFFF#48 } ]

/-- The ring buffer rows of the opcode map. -/
def ringRows : List OpRow := [
  { mnemonic := "RB_PUSH", pat := 0x100000000000#48, mask := 0xFF00FF00FFFF#48 },
  { mnemonic := "RB_POP", pat := 0x110000000000#48, mask := 0xFF00FFFFFFFF#48 },
  { mnemonic := "RB_PEEK", pat := 0x120000000000#48, mask := 0xFF000000FFFF#48 },
  { mnemonic := "RB_SIZE", pat := 0x130000000000#48, mask := 0xFF00FFFFFFFF#48 },
  { mnemonic := "RB_EMPTY", pat := 0x140000000000#48, mask := 0xFF00FFFFFFFF#48 },
  { mnemonic := "RB_FULL", pat := 0x150000000000#48, mask := 0xFF00FFFFFFFF#48 } ]

/-- The conversion rows of the opcode map. -/
def conversionRows : List OpRow := [
  { mnemonic := "MSB_S", pat := 0x200000000000#48, mask := 0xFFFF0000FFFF#48 },
  { mnemonic := "LSB_S", pat := 0x210000000000#48, mask := 0xFFFF0000FFFF#48 },
  { mnemonic := "MSB_U", pat := 0x220000000000#48, mask := 0xFFFF0000FFFF#48 },
  { mnemonic := "LSB_U", pat := 0x230000000000#48, mask := 0xFFFF0000FFFF#48 },
  { mnemonic := "JOIN_S", pat := 0x240000000000#48, mask := 0xFFFFFF00FF00#48 },
  { mnemonic := "JOIN_U", pat := 0x250000000000#48, mask := 0xFFFFFF00FF00#48 } ]

/-- The CRC rows of the opcode map. -/
def crcRows : List OpRow := [
  { mnemonic := "CRC_INIT", pat := 0x300000000000#48, mask := 0xFFFFFFFFFFFF#48 },
  { mnemonic := "CRC_BYTE", pat := 0x310000000000#48, mask := 0xFFFFFF00FFFF#48 },
  { mnemonic := "CRC_READ", pat := 0x320000000000#48, mask := 0xFFFFFFFFFFFF#48 } ]

/-- The scanner and shared array rows of the opcode map. -/
def arrayRows : List OpRow := [
  { mnemonic := "SCAN", pat := 0x400000000000#48, mask := 0xFF00FFFFFFFF#48 },
  { mnemonic := "RD_ARRAY", pat := 0x500000000000#48, mask := 0xFFFF0000FFFF#48 },
  { mnemonic := "RD_FLAG", pat := 0x510000000000#48, mask := 0xFFFF0000FFFF#48 },
  { mnemonic := "LIMIT", pat := 0x520000000000#48, mask := 0xFF000000FFFF#48 } ]

/-- The framer rows of the opcode map. -/
def framerRows : List OpRow := [
  { mnemonic := "QUEUE", pat := 0x600000000000#48, mask := 0xFFFF00000000#48 },
  { mnemonic := "CLEAR_PKT", pat := 0x610000000000#48, mask := 0xFFFFFFFFFFFF#48 },
  { mnemonic := "SEND", pat := 0x620000000000#48, mask := 0xFF00FF00FFFF#48 } ]

/-- The opcode map of 30_encoding.md R105: 27 rows. -/
def opRows : List OpRow :=
  controlRows ++ ringRows ++ conversionRows ++ crcRows ++ arrayRows ++ framerRows

/-- "A word matches a command when `(word & mask) = match`" (R105). -/
def OpRow.matchesWord (r : OpRow) (w : CmdWord) : Bool := w &&& r.mask == r.pat

/-- The word carries the opcode of this row, whatever its other bits are. -/
def OpRow.hasOpcodeOf (r : OpRow) (w : CmdWord) : Bool :=
  w &&& 0xFF0000000000#48 == r.pat

/-- The opcode of the word is one of the 27 (R105, R106). -/
def opcodeLegal (w : CmdWord) : Bool := opRows.any (·.hasOpcodeOf w)

/-- The word is a command: its opcode is in the map and its must-be-zero bits are zero. -/
def wordWellFormed (w : CmdWord) : Bool := opRows.any (·.matchesWord w)

end Sys2Proof
end

