-- ==== Sys2Proof/Decode.lean ====
section
/-!
DEFINITION. From command words to commands and back (30_encoding.md R101 to R106), and the
byte-serial form of a command word (20_memory.md R75). Decoding is total and rejects by name.
-/

namespace Sys2Proof

/-- Why a command word is no command. -/
inductive Reject where
  /-- The `OPC` value is not in the opcode map (R106): the block answers `F_ILLEGAL_OPCODE`. -/
  | illegalOpcode
  /-- A must-be-zero bit of the opcode's fields is 1 (R103): the block answers `F_RESERVED`. -/
  | reserved
  deriving DecidableEq, Repr

/-- Why a byte-serial command is no command. -/
inductive BytesReject where
  /-- It is not six bytes long, so it is no command word (log entry 13). -/
  | badLength
  /-- Its six bytes are a command word that is no command. -/
  | word (r : Reject)
  deriving DecidableEq, Repr

/-! ## Fields of the command word (R101) -/

/-- `OPC`, bits 47:40. -/
def opcOf (w : CmdWord) : Byte := w.extractLsb' 40 8
/-- `P`, bits 39:32. -/
def pOf (w : CmdWord) : Byte := w.extractLsb' 32 8
/-- `A`, bits 31:16. -/
def aOf (w : CmdWord) : Half := w.extractLsb' 16 16
/-- `B`, bits 15:0. -/
def bOf (w : CmdWord) : Half := w.extractLsb' 0 16

/-- The word with the given four fields. -/
def cmdWord (opc p : Byte) (a b : Half) : CmdWord := opc ++ p ++ a ++ b

/-- Bits 7:0 of a 16-bit field: the byte of the uses `A8` and `B8` (R102). -/
def lowByte (v : Half) : Byte := v.extractLsb' 0 8
/-- Bits 15:8 of a 16-bit field: must be zero in the uses `A8` and `B8` (R102). -/
def highByte (v : Half) : Byte := v.extractLsb' 8 8

/-! ## Decoding -/

/-- `i` if the must-be-zero bits are zero, else the rejection of R103. -/
def ifZero (zeros : Bool) (i : Instr) : Except Reject Instr :=
  if zeros then .ok i else .error .reserved

/-- The command with these four fields (R102, R105): the opcode is looked at first, then its
must-be-zero bits (60_exceptions.md R312 steps 1 and 2). -/
def decodeFields (opc p : Byte) (a b : Half) : Except Reject Instr :=
  let a8 := highByte a == 0
  let b8 := highByte b == 0
  match opc with
  | 0x00#8 => ifZero (p == 0 && a == 0 && b == 0) .nop
  | 0x01#8 => ifZero (p == 0 && a8 && b == 0) (.init (lowByte a))
  | 0x02#8 => ifZero (b == 0) (.portOpen p a)
  | 0x03#8 => ifZero (a == 0 && b == 0) (.portClose p)
  | 0x04#8 => ifZero (p == 0 && a == 0 && b == 0) .rdFault
  | 0x10#8 => ifZero (a8 && b == 0) (.rbPush p (lowByte a))
  | 0x11#8 => ifZero (a == 0 && b == 0) (.rbPop p)
  | 0x12#8 => ifZero (b == 0) (.rbPeek p a)
  | 0x13#8 => ifZero (a == 0 && b == 0) (.rbSize p)
  | 0x14#8 => ifZero (a == 0 && b == 0) (.rbEmpty p)
  | 0x15#8 => ifZero (a == 0 && b == 0) (.rbFull p)
  | 0x20#8 => ifZero (p == 0 && b == 0) (.msbS a)
  | 0x21#8 => ifZero (p == 0 && b == 0) (.lsbS a)
  | 0x22#8 => ifZero (p == 0 && b == 0) (.msbU a)
  | 0x23#8 => ifZero (p == 0 && b == 0) (.lsbU a)
  | 0x24#8 => ifZero (p == 0 && a8 && b8) (.joinS (lowByte a) (lowByte b))
  | 0x25#8 => ifZero (p == 0 && a8 && b8) (.joinU (lowByte a) (lowByte b))
  | 0x30#8 => ifZero (p == 0 && a == 0 && b == 0) .crcInit
  | 0x31#8 => ifZero (p == 0 && a8 && b == 0) (.crcByte (lowByte a))
  | 0x32#8 => ifZero (p == 0 && a == 0 && b == 0) .crcRead
  | 0x40#8 => ifZero (a == 0 && b == 0) (.scan p)
  | 0x50#8 => ifZero (p == 0 && b == 0) (.rdArray a)
  | 0x51#8 => ifZero (p == 0 && b == 0) (.rdFlag a)
  | 0x52#8 => ifZero (b == 0) (.limit a p)
  | 0x60#8 => ifZero (p == 0) (.queue a b)
  | 0x61#8 => ifZero (p == 0 && a == 0 && b == 0) .clearPkt
  | 0x62#8 => ifZero (a8 && b == 0) (.send p (lowByte a))
  | _ => .error .illegalOpcode

/-- The command a word stands for, or why it stands for none. -/
def decode (w : CmdWord) : Except Reject Instr :=
  decodeFields (opcOf w) (pOf w) (aOf w) (bOf w)

/-! ## Byte-serial command words (20_memory.md R75) -/

/-- The six bytes of a command word, most significant first (the `OPC` byte first). -/
def wordBytes (w : CmdWord) : List Byte :=
  [w.extractLsb' 40 8, w.extractLsb' 32 8, w.extractLsb' 24 8, w.extractLsb' 16 8,
    w.extractLsb' 8 8, w.extractLsb' 0 8]

/-- The command of six bytes sent most significant first; any other number of bytes is no command
(log entry 13). -/
def decodeBytes : List Byte → Except BytesReject Instr
  | [b5, b4, b3, b2, b1, b0] =>
    match decode (b5 ++ b4 ++ b3 ++ b2 ++ b1 ++ b0) with
    | .ok i => .ok i
    | .error r => .error (.word r)
  | _ => .error .badLength

/-- The host's probe: the command this decoder reads from the word whose bits are `w`, numbered as
spec/opcode_table.json numbers them (one 48-bit word, bit 0 least significant). -/
def decodeTableWord (nbits w : Nat) : Option Instr :=
  if nbits ≤ 48 ∧ w < 2 ^ 48 then
    match decodeBytes (wordBytes (BitVec.ofNat 48 w)) with
    | .ok i => some i
    | .error _ => none
  else none

/-! ## Encoding -/

/-- A byte operand in a 16-bit field: the byte in bits 7:0, zeros above (R102, uses `A8`, `B8`). -/
def byteField (b : Byte) : Half := b.setWidth 16

/-- The command word of a command, from the opcode map of R105. -/
def encode : Instr → CmdWord
  | .nop => cmdWord 0x00 0 0 0
  | .init addr => cmdWord 0x01 0 (byteField addr) 0
  | .portOpen p capacity => cmdWord 0x02 p capacity 0
  | .portClose p => cmdWord 0x03 p 0 0
  | .rdFault => cmdWord 0x04 0 0 0
  | .rbPush p byte => cmdWord 0x10 p (byteField byte) 0
  | .rbPop p => cmdWord 0x11 p 0 0
  | .rbPeek p index => cmdWord 0x12 p index 0
  | .rbSize p => cmdWord 0x13 p 0 0
  | .rbEmpty p => cmdWord 0x14 p 0 0
  | .rbFull p => cmdWord 0x15 p 0 0
  | .msbS value => cmdWord 0x20 0 value 0
  | .lsbS value => cmdWord 0x21 0 value 0
  | .msbU value => cmdWord 0x22 0 value 0
  | .lsbU value => cmdWord 0x23 0 value 0
  | .joinS msb lsb => cmdWord 0x24 0 (byteField msb) (byteField lsb)
  | .joinU msb lsb => cmdWord 0x25 0 (byteField msb) (byteField lsb)
  | .crcInit => cmdWord 0x30 0 0 0
  | .crcByte byte => cmdWord 0x31 0 (byteField byte) 0
  | .crcRead => cmdWord 0x32 0 0 0
  | .scan p => cmdWord 0x40 p 0 0
  | .rdArray index => cmdWord 0x50 0 index 0
  | .rdFlag index => cmdWord 0x51 0 index 0
  | .limit index p => cmdWord 0x52 p index 0
  | .queue index value => cmdWord 0x60 0 index value
  | .clearPkt => cmdWord 0x61 0 0 0
  | .send p dest => cmdWord 0x62 p (byteField dest) 0

end Sys2Proof
end

