-- ==== Sys2Proof/Config.lean ====
section
/-!
DEFINITION. What an implementation of the block fixes: the four configuration parameters of
00_scope.md R8, which the model takes as an argument, and the one free value of the model.
-/

namespace Sys2Proof

/-- The configuration parameters of 00_scope.md R8 and 10_state.md R45, fixed for the life of the
block. They are an argument of the model: plain data carried by the state and changed by no step,
so a statement about every state is a statement about every configuration (log entry 4). -/
structure Config where
  /-- `ARRAY_SIZE`, the number of shared-array entries. -/
  arraySize : Nat
  /-- `MX_PACKET_SIZE`, the largest total frame size in bytes the scanner accepts. -/
  mxPacketSize : Nat
  /-- `NPORTS`, the number of byte channels. -/
  nports : Nat
  /-- `RB_MAXCAP`, the largest ring-buffer capacity `PORT_OPEN` accepts. -/
  rbMaxCap : Nat
  deriving DecidableEq, Repr

/-- The legal ranges of 00_scope.md R8. -/
abbrev Config.Legal (c : Config) : Prop :=
  (1 ≤ c.arraySize ∧ c.arraySize ≤ 65536) ∧ (1 ≤ c.mxPacketSize ∧ c.mxPacketSize ≤ 65535) ∧
    (1 ≤ c.nports ∧ c.nports ≤ 255) ∧ (1 ≤ c.rbMaxCap ∧ c.rbMaxCap ≤ 65535)

/-- The configuration of `State.reset`: the one 95_test_vectors.md uses for its vectors and
programs. DESIGN CHOICE, log entry 4: the spec leaves every value OPEN. -/
def Config.vectors : Config :=
  { arraySize := 16, mxPacketSize := 64, nports := 2, rbMaxCap := 256 }

/-- FREE VALUE, log entry 7: what slot `k` of a ring buffer holds right after the `draw`-th
`PORT_OPEN`. The spec says "any value" (10_state.md R49; 93_implementation_defined.md U10); nothing
in Lean can evaluate it. -/
opaque Config.freeSlot (draw k : Nat) : Byte

end Sys2Proof
end

