-- ==== Sys2Proof/Machine/State.lean ====
section
/-!
DEFINITION. The state of the block as plain data (10_state.md R32), the inputs that drive it, the
response it returns, and the state after reset (10_state.md R49; 70_reset_and_hazards.md R350).
-/

namespace Sys2Proof.Machine

/-- The fault causes of 60_exceptions.md R311, codes 0x81 to 0x8A in this order. A fault is taken by
`State.raiseFault` and leads to a next state; it does not stop the machine. -/
inductive FaultCode where
  /-- `F_ILLEGAL_OPCODE` (0x81): the opcode is not in the map. -/
  | illegalOpcode
  /-- `F_RESERVED` (0x82): a must-be-zero bit is 1. -/
  | reserved
  /-- `F_BAD_PORT` (0x83): `P >= NPORTS`. -/
  | badPort
  /-- `F_PORT_CLOSED` (0x84): `OPEN[P] = 0`. -/
  | portClosed
  /-- `F_PORT_OPEN` (0x85): `OPEN[P] = 1`. -/
  | portOpen
  /-- `F_NOT_INIT` (0x86): `ADDR_VALID = 0`. -/
  | notInit
  /-- `F_BAD_CAPACITY` (0x87): capacity 0 or above `RB_MAXCAP`. -/
  | badCapacity
  /-- `F_RB_EMPTY` (0x88): `COUNT[P] = 0`. -/
  | rbEmpty
  /-- `F_PEEK_RANGE` (0x89): `A >= COUNT[P]`. -/
  | peekRange
  /-- `F_INDEX_RANGE` (0x8A): `A >= ARRAY_SIZE`. -/
  | indexRange
  deriving DecidableEq, Repr

/-- The status of a response (30_encoding.md R104). No other status exists. -/
inductive Status where
  /-- `OK` (0x00): the command was performed. -/
  | ok
  /-- `E_STAGE_FULL` (0x01): `QUEUE` refused; a recoverable error, not a fault. -/
  | stageFull
  /-- `F_...` (0x81 to 0x8A): the command was refused with a fault. -/
  | fault (f : FaultCode)
  deriving DecidableEq, Repr

/-- The response of a command: `STATUS` and `RESULT` (30_encoding.md R104). -/
structure Response where
  status : Status
  result : Half
  deriving DecidableEq, Repr

/-- The ring buffer of a channel (10_state.md R32, R36): capacity, physical slots, physical slot of
the oldest byte, number of bytes held. -/
structure RingBuf where
  /-- `CAP[p]`. -/
  cap : Nat
  /-- `SLOT[p][k]` for `k` below `CAP[p]`. -/
  slot : List Byte
  /-- `HEAD[p]`. -/
  head : Nat
  /-- `COUNT[p]`. -/
  count : Nat
  deriving DecidableEq, Repr

/-- A byte channel (10_state.md R36; 60_exceptions.md R323): its open bit, its ring buffer, and the
two boundary queues of its transport (10_state.md R43). -/
structure Channel where
  /-- `OPEN[p]`. -/
  isOpen : Bool
  ring : RingBuf
  /-- `SRC[p]`, oldest byte first; filled by the environment. -/
  src : List Byte
  /-- `SNK[p]`, oldest byte first; drained by the environment. -/
  snk : List Byte
  deriving DecidableEq, Repr

/-- One entry of the shared array (10_state.md R39 to R41). -/
structure Entry where
  /-- `ARRAY[i]`, an s16 bit pattern. -/
  value : Half
  /-- `DIRTY[i]`. -/
  dirty : Bool
  /-- `OWNER[i]`: `none`, or the channel number that may write the entry. -/
  owner : Option Nat
  deriving DecidableEq, Repr

/-- What reaches the block from outside, one input at a time (00_scope.md R5; 70_reset_and_hazards.md
R350). Log entries 1, 9 and 15. -/
inductive Input where
  /-- The host issues a command word (30_encoding.md R100). -/
  | command (w : CmdWord)
  /-- The transport of channel `p` appends bytes to `SRC[p]`. -/
  | arrive (p : Nat) (bytes : List Byte)
  /-- The transport of channel `p` takes the first `n` bytes of `SNK[p]`. -/
  | take (p n : Nat)
  /-- The reset event. -/
  | reset
  deriving DecidableEq, Repr

/-- The whole state: the elements of 10_state.md R32, the configuration (R45), the boundary queues
(R43, inside the channels), and three fields of the model's own (`pending`, `response`, `draws`). -/
structure State where
  /-- The configuration parameters; no step changes them. -/
  cfg : Config
  /-- `ADDR_VALID`. -/
  addrValid : Bool
  /-- `LOCAL_ADDR`. -/
  localAddr : Byte
  /-- `CRC_ACC`. -/
  crcAcc : Byte
  /-- `FAULTSTAT`, read by software as a whole word. -/
  faultstat : Half
  /-- The channels, `NPORTS` of them, channel 0 first. -/
  chans : List Channel
  /-- The shared array, `ARRAY_SIZE` entries, index 0 first. -/
  array : List Entry
  /-- `STAGE`, oldest byte first. -/
  stage : List Byte
  /-- MODEL'S OWN (log entry 1): the inputs still to come, oldest first. -/
  pending : List Input
  /-- MODEL'S OWN (log entry 3): the response of the last command, if there was one. -/
  response : Option Response
  /-- MODEL'S OWN (log entry 7): how many ring buffers have drawn free slot values. -/
  draws : Nat
  deriving DecidableEq, Repr

/-- Reasons to stop the machine with a fault. There are none: every fault of the spec is taken and
leads to a next state (60_exceptions.md R316, R317; log entry 12). -/
inductive Fault where
  deriving DecidableEq, Repr

/-- Reasons to have no meaning for a command. -/
inductive Refusal where
  /-- Raised by `exec` alone, for a command that has no meaning yet; safe: nothing can be proved of
  a next state. No arm of `exec` raises it now. -/
  | notModelled (mnemonic : String)
  deriving DecidableEq, Repr

/-- The three outcomes of a step, for this machine. -/
abbrev Answer := Host.Outcome State Fault Refusal

/-- The ring buffer of a channel after reset: `COUNT` is 0 (10_state.md R49). DESIGN CHOICE, log
entry 6: the spec leaves `CAP`, `HEAD` and `SLOT` unspecified; here one slot holding 0. -/
def RingBuf.atReset : RingBuf := { cap := 1, slot := [0], head := 0, count := 0 }

/-- An entry of the shared array after reset (10_state.md R49). -/
def Entry.atReset : Entry := { value := 0, dirty := false, owner := none }

/-- A channel after power-on: closed (10_state.md R49). DESIGN CHOICE, log entry 8: nothing has
arrived from its transport and nothing waits for it. -/
def Channel.atReset : Channel :=
  { isOpen := false, ring := RingBuf.atReset, src := [], snk := [] }

/-- The block of configuration `c` right after power-on (10_state.md R49; 70_reset_and_hazards.md
R350), before its host's first command. DESIGN CHOICE, log entry 5: `LOCAL_ADDR`, unspecified by the
spec, is 0. -/
def State.init (c : Config) : State where
  cfg := c
  addrValid := false
  localAddr := 0
  crcAcc := 0
  faultstat := 0
  chans := List.replicate c.nports Channel.atReset
  array := List.replicate c.arraySize Entry.atReset
  stage := []
  pending := []
  response := none
  draws := 0

/-- The machine right after reset, in the configuration of the spec's own vectors (log entry 4). -/
def State.reset : State := State.init Config.vectors

end Sys2Proof.Machine
end

