-- ==== Sys2Proof/Machine/Operands.lean ====
section
/-!
DEFINITION. The operand forms of 30_encoding.md R102 and the result forms of R104, the splitting and
joining of 16-bit values (20_memory.md R72, R74), and the fixed constants of 00_scope.md R9, R10.
-/

namespace Sys2Proof.Machine

/-! ## Fixed constants (00_scope.md R9; UNVERIFIED against the library's code, log entry 19) -/

/-- `HEADER_0`. -/
def header0 : Byte := 0x06
/-- `HEADER_1`. -/
def header1 : Byte := 0x85
/-- `HEADER_SIZE`: bytes before the data segment. -/
def headerSize : Nat := 5
/-- The bytes of a frame that are not data: five header bytes and the CRC byte. -/
def frameOverhead : Nat := 6
/-- The bytes of one (index, value) entry. -/
def entrySize : Nat := 4
/-- `CRC_POLY`. -/
def crcPoly : Byte := 0x8C
/-- The CRC's initial value. -/
def crcStart : Byte := 0x00

/-- `STAGE_CAP = min(MX_PACKET_SIZE, 255)` (00_scope.md R10). -/
def stageCap (c : Config) : Nat := min c.mxPacketSize 255

/-! ## Operand forms (30_encoding.md R102) -/

/-- The channel a `P` field names: its unsigned value. -/
def chanNo (p : Byte) : Nat := p.toNat

/-- A 16-bit operand read as u16: an index or a capacity. -/
def u16 (v : Half) : Nat := v.toNat

/-- A 16-bit operand read as s16: `v - 65536` if bit 15 is 1, else `v`. -/
def s16 (v : Half) : Int := v.toInt

/-! ## Result forms (30_encoding.md R104) -/

/-- A byte result, zero-extended to 16 bits. -/
def byteResult (b : Byte) : Half := b.setWidth 16

/-- A boolean result: 0x0001 for true, 0x0000 for false. -/
def boolResult (b : Bool) : Half := if b then 1 else 0

/-- A count returned in 16 bits, modulo 65536 (R221 for the frames of a `SCAN`; a ring-buffer count
always fits, R143). -/
def countResult (n : Nat) : Half := BitVec.ofNat 16 n

/-! ## Bytes of a 16-bit value, big-endian (20_memory.md R72, R74) -/

/-- The most significant byte, `v[15:8]`. -/
def msb (v : Half) : Byte := v.extractLsb' 8 8

/-- The least significant byte, `v[7:0]`. -/
def lsb (v : Half) : Byte := v.extractLsb' 0 8

/-- `m : l`, the 16-bit value with `m` in the high byte. -/
def join (m l : Byte) : Half := m ++ l

end Sys2Proof.Machine
end

