-- ==== Sys2Proof/Machine/Flags.lean ====
section
/-!
DEFINITION. The flags the block has (10_state.md R44): the fault latch `FAULTSTAT` and its codes
(10_state.md R35; 60_exceptions.md R311), the status codes of a response (30_encoding.md R104), the
dirty flags (10_state.md R40) and the write permission (44_access_control.md R253). There is no
condition-code register.
-/

namespace Sys2Proof.Machine

/-- The bit of `FAULTSTAT` a fault sets: its code less 0x80 (10_state.md R35). -/
def FaultCode.bit : FaultCode → Nat
  | .illegalOpcode => 1
  | .reserved => 2
  | .badPort => 3
  | .portClosed => 4
  | .portOpen => 5
  | .notInit => 6
  | .badCapacity => 7
  | .rbEmpty => 8
  | .peekRange => 9
  | .indexRange => 10

/-- The fault's code, 0x81 to 0x8A (60_exceptions.md R311). -/
def FaultCode.code (f : FaultCode) : Byte := 0x80 + BitVec.ofNat 8 f.bit

/-- The status byte of a response (30_encoding.md R104). -/
def Status.code : Status → Byte
  | .ok => 0x00
  | .stageFull => 0x01
  | .fault f => f.code

/-- The 24-bit response word `STATUS[23:16] : RESULT[15:0]` (30_encoding.md R104). -/
def Response.word (r : Response) : BitVec 24 := r.status.code ++ r.result

/-- The three bytes of a response are sent most significant first, as a command's are
(92_eei_decisions.md D3). -/
def Response.bytes (r : Response) : List Byte := [r.status.code, msb r.result, lsb r.result]

/-- The implemented bits of `FAULTSTAT`, 1 to 10; bits 0 and 11 to 15 are hardwired to 0
(10_state.md R35). -/
def faultImplemented : Half := 0x07FE

/-- The latch with one more fault recorded: `FAULTSTAT | (1 << (F - 0x80))` (60_exceptions.md R316). -/
def latch (faultstat : Half) (f : FaultCode) : Half := faultstat ||| (1 <<< f.bit)

/-- What a read of `FAULTSTAT` gives: the hardwired bits read 0 (10_state.md R35; log entry 11). -/
def latchRead (faultstat : Half) : Half := faultstat &&& faultImplemented

/-- An entry after a frame's write: the new value, marked unread (10_state.md R39, R40;
43_scanner.md R219). -/
def Entry.written (e : Entry) (v : Half) : Entry := { e with value := v, dirty := true }

/-- An entry after a read-and-acknowledge (44_access_control.md R250). -/
def Entry.acknowledged (e : Entry) : Entry := { e with dirty := false }

/-- An entry after `LIMIT`: only channel `p` may write it (44_access_control.md R254). -/
def Entry.ownedBy (e : Entry) (p : Nat) : Entry := { e with owner := some p }

/-- A frame received on channel `p` may write this entry (44_access_control.md R253). -/
def Entry.writableBy (e : Entry) (p : Nat) : Bool := e.owner == none || e.owner == some p

end Sys2Proof.Machine
end

