-- ==== Sys2Proof/Machine/Ops.lean ====
section
/-!
DEFINITION. The named operations on the state: reading and updating channels, ring buffers and the
shared array; the boundary primitives (20_memory.md R80); answering a command (30_encoding.md R104);
taking a fault (60_exceptions.md R316), once for all commands; the checks of 60_exceptions.md R312;
the actions of the environment and the reset event. There is no return from a fault
(60_exceptions.md R317).
-/

namespace Sys2Proof.Machine

/-! ## Ring buffers (10_state.md R36 to R38) -/

/-- The byte at logical position `i`: slot `(HEAD + i) mod CAP`. -/
def RingBuf.peek (r : RingBuf) (i : Nat) : Byte := r.slot.getD ((r.head + i) % r.cap) 0

/-- The logical content `RB[p].q`, oldest byte first (10_state.md R38). -/
def RingBuf.q (r : RingBuf) : List Byte := (List.range r.count).map r.peek

/-- A byte put after the newest one (40_ring_buffer.md R140); used only while `COUNT < CAP`. -/
def RingBuf.push (r : RingBuf) (b : Byte) : RingBuf :=
  { r with slot := r.slot.set ((r.head + r.count) % r.cap) b, count := r.count + 1 }

/-- The oldest byte removed (40_ring_buffer.md R141); used only while `COUNT > 0`. -/
def RingBuf.dropOne (r : RingBuf) : RingBuf :=
  { r with head := (r.head + 1) % r.cap, count := r.count - 1 }

/-- `DropFront(p, n)` of 43_scanner.md: the `n` oldest bytes removed, one at a time. -/
def RingBuf.dropFront : Nat → RingBuf → RingBuf
  | 0, r => r
  | n + 1, r => RingBuf.dropFront n r.dropOne

/-- A fresh, empty ring buffer of capacity `c` (46_control.md R294). What its slots hold is a free
value (log entry 7). -/
def RingBuf.fresh (draw c : Nat) : RingBuf :=
  { cap := c, slot := (List.range c).map (Config.freeSlot draw), head := 0, count := 0 }

/-- The buffer after `PORT_CLOSE`: its bytes are discarded (46_control.md R296; log entry 10). -/
def RingBuf.closed (r : RingBuf) : RingBuf := { r with count := 0 }

/-! ## Channels, entries, registers -/

/-- Channel `p` (log entry 14: one that does not exist reads as a channel after reset). -/
def State.chan (s : State) (p : Nat) : Channel := s.chans.getD p Channel.atReset

/-- Channel `p` replaced. -/
def State.setChan (s : State) (p : Nat) (c : Channel) : State := { s with chans := s.chans.set p c }

/-- The ring buffer of channel `p` replaced. -/
def State.setRing (s : State) (p : Nat) (r : RingBuf) : State :=
  s.setChan p { s.chan p with ring := r }

/-- Entry `i` of an array (log entry 14: one that does not exist reads as after reset). -/
def entryAt (arr : List Entry) (i : Nat) : Entry := arr.getD i Entry.atReset

/-- Entry `i` of the shared array. -/
def State.entry (s : State) (i : Nat) : Entry := entryAt s.array i

/-- Entry `i` of the shared array replaced. -/
def State.setEntry (s : State) (i : Nat) (e : Entry) : State :=
  { s with array := s.array.set i e }

/-- The shared array replaced, after a scan's commits. -/
def State.setArray (s : State) (arr : List Entry) : State := { s with array := arr }

/-- The staging buffer replaced. -/
def State.setStage (s : State) (l : List Byte) : State := { s with stage := l }

/-- The CRC accumulator written. -/
def State.setCrcAcc (s : State) (v : Byte) : State := { s with crcAcc := v }

/-- The node address set and marked valid (46_control.md R292). -/
def State.setAddr (s : State) (a : Byte) : State := { s with localAddr := a, addrValid := true }

/-- One more draw of free slot values taken (log entry 7). -/
def State.nextDraw (s : State) : State := { s with draws := s.draws + 1 }

/-! ## Boundary primitives (20_memory.md R80, R81) -/

/-- Bytes emitted to the sink of a channel, in order; never refused. -/
def Channel.emit (c : Channel) (l : List Byte) : Channel := { c with snk := c.snk ++ l }

/-- The bytes moved from a source into a ring buffer while the source is not empty and the buffer is
not full (43_scanner.md R211): the buffer and the source afterwards. -/
def drain : RingBuf → List Byte → RingBuf × List Byte
  | r, [] => (r, [])
  | r, b :: rest => if r.count < r.cap then drain (r.push b) rest else (r, b :: rest)

/-! ## Answering a command -/

/-- The command's response (30_encoding.md R104). -/
def State.respond (s : State) (st : Status) (v : Half) : State :=
  { s with response := some { status := st, result := v } }

/-- `raise Fault(F)` (60_exceptions.md R314 to R316): the fault's bit is latched, the response is its
code with result 0, and nothing else changes. -/
def State.raiseFault (s : State) (f : FaultCode) : State :=
  { s with
    faultstat := latch s.faultstat f
    response := some { status := .fault f, result := 0 } }

/-- A check made before a command changes anything (60_exceptions.md R313): its fault ends the
command, else the command goes on. -/
def guarded (check : Option FaultCode) (s : State) (k : Answer) : Answer :=
  match check with
  | some f => .next (s.raiseFault f)
  | none => k

/-- `f` unless the condition holds. -/
def faultUnless (cond : Bool) (f : FaultCode) : Option FaultCode := if cond then none else some f

/-- R312 step 3: the channel number. -/
def State.portNumberFault (s : State) (p : Nat) : Option FaultCode :=
  faultUnless (p < s.cfg.nports) .badPort

/-- R312 steps 3 and 4 for every command on a channel but `PORT_OPEN`: the channel exists and is
open (the channel check of 40_ring_buffer.md). -/
def State.portFault (s : State) (p : Nat) : Option FaultCode :=
  (s.portNumberFault p).or (faultUnless (s.chan p).isOpen .portClosed)

/-- R312 step 5: the local address, for `SCAN` and `SEND`. -/
def State.addrFault (s : State) : Option FaultCode := faultUnless s.addrValid .notInit

/-- The fault the block answers a word with that stands for no command (R103, R106). -/
def rejectFault : Reject → FaultCode
  | .illegalOpcode => .illegalOpcode
  | .reserved => .reserved

/-! ## The environment and reset -/

/-- The transport of channel `p` has received bytes (00_scope.md R5; 10_state.md R43). -/
def State.arrive (s : State) (p : Nat) (l : List Byte) : State :=
  s.setChan p { s.chan p with src := (s.chan p).src ++ l }

/-- The transport of channel `p` has taken the first `n` bytes of its sink. -/
def State.take (s : State) (p n : Nat) : State :=
  s.setChan p { s.chan p with snk := (s.chan p).snk.drop n }

/-- A channel after the reset event: closed and empty, its boundary queues untouched
(70_reset_and_hazards.md R350, R351; log entry 6 for the unspecified elements). -/
def Channel.afterReset (c : Channel) : Channel :=
  { c with isOpen := false, ring := RingBuf.atReset }

/-- The reset event (70_reset_and_hazards.md R350, R351; log entry 15): every element at its reset
value, all at once; the configuration and the boundary queues stay. -/
def State.resetEvent (s : State) : State :=
  { s with
    addrValid := false
    localAddr := 0
    crcAcc := 0
    faultstat := 0
    chans := s.chans.map Channel.afterReset
    array := s.array.map fun _ => Entry.atReset
    stage := []
    response := none }

end Sys2Proof.Machine
end

