-- ==== Sys2Proof/Machine/Control.lean ====
section
/-!
DEFINITION. The control commands (46_control.md): `NOP`, `INIT`, `PORT_OPEN`, `PORT_CLOSE`,
`RD_FAULT`.
-/

namespace Sys2Proof.Machine

/-- `NOP` (R290). -/
def execNop (s : State) : Answer := .next (s.respond .ok 0)

/-- `INIT addr` (R292, R293): the address and its valid bit, nothing else. -/
def execInit (addr : Byte) (s : State) : Answer := .next ((s.setAddr addr).respond .ok 0)

/-- R312 steps 3, 4 and 6 for `PORT_OPEN`: number, not open yet, capacity. -/
def openFault (p c : Nat) (s : State) : Option FaultCode :=
  ((s.portNumberFault p).or (faultUnless (!(s.chan p).isOpen) .portOpen)).or
    (faultUnless (1 ≤ c && c ≤ s.cfg.rbMaxCap) .badCapacity)

/-- `PORT_OPEN p, capacity` (R294): the channel opens with an empty buffer; its boundary queues stay. -/
def execPortOpen (p : Byte) (capacity : Half) (s : State) : Answer :=
  guarded (openFault (chanNo p) (u16 capacity) s) s <|
    let c := { s.chan (chanNo p) with isOpen := true, ring := RingBuf.fresh s.draws (u16 capacity) }
    .next ((s.setChan (chanNo p) c).nextDraw.respond .ok 0)

/-- `PORT_CLOSE p` (R296, R297): the buffer's bytes are discarded; boundary queues and owners stay. -/
def execPortClose (p : Byte) (s : State) : Answer :=
  guarded (s.portFault (chanNo p)) s <|
    let c := s.chan (chanNo p)
    .next ((s.setChan (chanNo p) { c with isOpen := false, ring := c.ring.closed }).respond .ok 0)

/-- `RD_FAULT` (R298): reading does not clear the latch. -/
def execRdFault (s : State) : Answer := .next (s.respond .ok (latchRead s.faultstat))

end Sys2Proof.Machine
end

