-- ==== Sys2Proof/Machine/Conversion.lean ====
section
/-!
DEFINITION. The byte-to-word converter (41_conversion.md): six commands that change no state. The
signed and unsigned forms give the same bits (R176).
-/

namespace Sys2Proof.Machine

/-- A command that only returns a value. -/
def answerOnly (v : Half) (s : State) : Answer := .next (s.respond .ok v)

/-- `MSB_S value` (R170). -/
def execMsbS (value : Half) (s : State) : Answer := answerOnly (byteResult (msb value)) s

/-- `LSB_S value` (R171). -/
def execLsbS (value : Half) (s : State) : Answer := answerOnly (byteResult (lsb value)) s

/-- `MSB_U value` (R172). -/
def execMsbU (value : Half) (s : State) : Answer := answerOnly (byteResult (msb value)) s

/-- `LSB_U value` (R173). -/
def execLsbU (value : Half) (s : State) : Answer := answerOnly (byteResult (lsb value)) s

/-- `JOIN_S msb, lsb` (R174). -/
def execJoinS (m l : Byte) (s : State) : Answer := answerOnly (join m l) s

/-- `JOIN_U msb, lsb` (R175). -/
def execJoinU (m l : Byte) (s : State) : Answer := answerOnly (join m l) s

end Sys2Proof.Machine
end

