-- ==== Sys2Proof/Machine/Crc.lean ====
section
/-!
DEFINITION. The CRC-8 function (42_crc8.md R190, R191), used by the scanner and the framer through
their own unit (R193), and the three commands on the accumulator `CRC_ACC` (R194 to R196).
-/

namespace Sys2Proof.Machine

/-- `n` iterations of the bit loop of R190: the low bit of `value ^ data` decides whether the shifted
accumulator is combined with the polynomial; both shifts are logical. -/
def crcBits : Nat → Byte → Byte → Byte
  | 0, value, _ => value
  | n + 1, value, data =>
    let sum := (value ^^^ data) &&& 1
    let shifted := value >>> 1
    crcBits n (if sum = 1 then shifted ^^^ crcPoly else shifted) (data >>> 1)

/-- `CRC_STEP(value, data)` (R190): eight iterations. -/
def crcStep (value data : Byte) : Byte := crcBits 8 value data

/-- `CRC8(l)` (R191): the left fold of `CRC_STEP` from the initial value. -/
def crc8 (l : List Byte) : Byte := l.foldl crcStep crcStart

/-- `CRC_INIT` (R194). -/
def execCrcInit (s : State) : Answer := .next ((s.setCrcAcc crcStart).respond .ok 0)

/-- `CRC_BYTE byte` (R195): the accumulator advances by one byte and its new value is returned. -/
def execCrcByte (byte : Byte) (s : State) : Answer :=
  let v := crcStep s.crcAcc byte
  .next ((s.setCrcAcc v).respond .ok (byteResult v))

/-- `CRC_READ` (R196). -/
def execCrcRead (s : State) : Answer := .next (s.respond .ok (byteResult s.crcAcc))

end Sys2Proof.Machine
end

