-- ==== Sys2Proof/Machine/Framer.lean ====
section
/-!
DEFINITION. The packet framer (45_framer.md): `QUEUE`, `CLEAR_PKT`, `SEND`.
-/

namespace Sys2Proof.Machine

/-- The four bytes of an entry: index then value, most significant byte first (R271). -/
def entryBytes (index value : Half) : List Byte := [msb index, lsb index, msb value, lsb value]

/-- `FRAME(s, d, S)` (R274). -/
def frame (source dest : Byte) (data : List Byte) : List Byte :=
  [header0, header1, source, dest, BitVec.ofNat 8 data.length] ++ data ++ [crc8 data]

/-- `QUEUE index, value` (R270, R272): the entry staged, or `E_STAGE_FULL` and nothing changed. -/
def execQueue (index value : Half) (s : State) : Answer :=
  if s.stage.length + entrySize > stageCap s.cfg then .next (s.respond .stageFull 0)
  else .next ((s.setStage (s.stage ++ entryBytes index value)).respond .ok 0)

/-- `CLEAR_PKT` (R273). -/
def execClearPkt (s : State) : Answer := .next ((s.setStage []).respond .ok 0)

/-- `SEND p, dest` (R276, R277): the whole frame emitted, the staging buffer emptied; the frame's
size is not checked. -/
def execSend (p dest : Byte) (s : State) : Answer :=
  guarded ((s.portFault (chanNo p)).or s.addrFault) s <|
    let c := (s.chan (chanNo p)).emit (frame s.localAddr dest s.stage)
    .next (((s.setChan (chanNo p) c).setStage []).respond .ok 0)

end Sys2Proof.Machine
end

