-- ==== Sys2Proof/Machine/RingBuffer.lean ====
section
/-!
DEFINITION. The ring-buffer controller (40_ring_buffer.md): six commands on the buffer of one
channel, each after the channel check.
-/

namespace Sys2Proof.Machine

/-- A command that reads the ring buffer of an open channel and changes nothing. -/
def ringQuery (p : Byte) (read : RingBuf → Half) (s : State) : Answer :=
  guarded (s.portFault (chanNo p)) s <|
    .next (s.respond .ok (read (s.chan (chanNo p)).ring))

/-- `RB_PUSH p, byte` (R140): 1 if accepted, 0 if the buffer is full and the byte dropped. -/
def execRbPush (p byte : Byte) (s : State) : Answer :=
  guarded (s.portFault (chanNo p)) s <|
    let r := (s.chan (chanNo p)).ring
    if r.count = r.cap then .next (s.respond .ok 0)
    else .next ((s.setRing (chanNo p) (r.push byte)).respond .ok 1)

/-- `RB_POP p` (R141): the oldest byte, removed; a fault on an empty buffer. -/
def execRbPop (p : Byte) (s : State) : Answer :=
  let r := (s.chan (chanNo p)).ring
  guarded ((s.portFault (chanNo p)).or (faultUnless (r.count != 0) .rbEmpty)) s <|
    .next ((s.setRing (chanNo p) r.dropOne).respond .ok (byteResult (r.peek 0)))

/-- `RB_PEEK p, index` (R142): the byte at a logical position, not removed. -/
def execRbPeek (p : Byte) (index : Half) (s : State) : Answer :=
  let r := (s.chan (chanNo p)).ring
  guarded ((s.portFault (chanNo p)).or (faultUnless (u16 index < r.count) .peekRange)) s <|
    .next (s.respond .ok (byteResult (r.peek (u16 index))))

/-- `RB_SIZE p` (R143). -/
def execRbSize (p : Byte) (s : State) : Answer := ringQuery p (fun r => countResult r.count) s

/-- `RB_EMPTY p` (R144). -/
def execRbEmpty (p : Byte) (s : State) : Answer := ringQuery p (fun r => boolResult (r.count == 0)) s

/-- `RB_FULL p` (R145). -/
def execRbFull (p : Byte) (s : State) : Answer :=
  ringQuery p (fun r => boolResult (r.count == r.cap)) s

end Sys2Proof.Machine
end

