-- ==== Sys2Proof/Machine/Scanner.lean ====
section
/-!
DEFINITION. The packet scanner, `SCAN` (43_scanner.md R210 to R221), as the pseudocode of R210 has
it: drain once, then loop over the buffer until it runs out of bytes.
-/

namespace Sys2Proof.Machine

/-- Byte `i` of a byte list; used only below its length. -/
def byteAt (l : List Byte) (i : Nat) : Byte := l.getD i 0

/-- Entry `k` of a frame's data segment: index and value, big-endian (30_encoding.md R111). -/
def frameEntry (f : List Byte) (k : Nat) : Half × Half :=
  let o := headerSize + entrySize * k
  (join (byteAt f o) (byteAt f (o + 1)), join (byteAt f (o + 2)) (byteAt f (o + 3)))

/-- The length byte of a header, `q[4]`. -/
def headerLen (q : List Byte) : Nat := (byteAt q 4).toNat

/-- The size of the frame a header announces; an unbounded sum (R214 condition 5). -/
def frameSize (q : List Byte) : Nat := headerLen q + frameOverhead

/-- Header validation (R214): the five conditions, for at least five bytes. -/
def headerValid (cfg : Config) (addr : Byte) (q : List Byte) : Bool :=
  byteAt q 0 == header0 && byteAt q 1 == header1 && byteAt q 3 == addr &&
    headerLen q % entrySize == 0 && decide (frameSize q ≤ cfg.mxPacketSize)

/-- The data segment of the frame at the front of the buffer. -/
def dataSegment (q : List Byte) : List Byte := (q.drop headerSize).take (headerLen q)

/-- The CRC check (R217): the data segment's CRC against the byte after it. -/
def crcAgrees (q : List Byte) : Bool :=
  crc8 (dataSegment q) == byteAt q (headerSize + headerLen q)

/-- One entry written, if its index is in range and its owner lets channel `p` write it; else
skipped (R219). -/
def commitEntry (cfg : Config) (p : Nat) (arr : List Entry) (e : Half × Half) : List Entry :=
  let i := u16 e.1
  if i < cfg.arraySize ∧ (entryAt arr i).writableBy p then
    arr.set i ((entryAt arr i).written e.2)
  else arr

/-- The entries of the frame at the front of the buffer, in order. -/
def frameEntries (q : List Byte) : List (Half × Half) :=
  (List.range (headerLen q / entrySize)).map (frameEntry q)

/-- The commit of a frame's entries, in increasing order (R219). -/
def commitFrame (cfg : Config) (p : Nat) (arr : List Entry) (q : List Byte) : List Entry :=
  (frameEntries q).foldl (commitEntry cfg p) arr

/-- What the scanner's loop works on: the channel's buffer, the shared array, the frames committed. -/
structure ScanWork where
  ring : RingBuf
  array : List Entry
  frames : Nat
  deriving DecidableEq, Repr

/-- How many bytes synchronizing removes (R213): those before the first `HEADER_0`. -/
def syncCount (q : List Byte) : Nat := (q.takeWhile (· != header0)).length

/-- The bytes before the first `HEADER_0` removed (R213). -/
def synchronize (r : RingBuf) : RingBuf := r.dropFront (syncCount r.q)

/-- One byte removed and the scan goes on (R214, R218). -/
def ScanWork.discardOne (x : ScanWork) : ScanWork := { x with ring := x.ring.dropFront 1 }

/-- The frame at the front committed and removed whole (R219, R220). -/
def ScanWork.commit (cfg : Config) (p : Nat) (x : ScanWork) : ScanWork :=
  { ring := x.ring.dropFront (frameSize x.ring.q)
    array := commitFrame cfg p x.array x.ring.q
    frames := x.frames + 1 }

/-- One pass of the loop after synchronizing (R214 to R220): whether the loop goes on, and what it
works on next. -/
def scanPass (cfg : Config) (addr : Byte) (p : Nat) (x : ScanWork) : Bool × ScanWork :=
  if x.ring.q.length < headerSize then (false, x)
  else if !headerValid cfg addr x.ring.q then (true, x.discardOne)
  else if x.ring.q.length < frameSize x.ring.q then (false, x)
  else if crcAgrees x.ring.q then (true, x.commit cfg p)
  else (true, x.discardOne)

/-- The loop (R212): at most `fuel` passes. Each pass that goes on removes a byte, so `COUNT + 1`
passes are enough (R223; log entry 16). -/
def scanLoop (cfg : Config) (addr : Byte) (p : Nat) : Nat → ScanWork → ScanWork
  | 0, x => x
  | fuel + 1, x =>
    if x.ring.count = 0 then x
    else
      match scanPass cfg addr p { x with ring := synchronize x.ring } with
      | (true, y) => scanLoop cfg addr p fuel y
      | (false, y) => y

/-- The loop on a drained buffer, from no frames committed. -/
def scanBuffer (cfg : Config) (addr : Byte) (p : Nat) (r : RingBuf) (arr : List Entry) : ScanWork :=
  scanLoop cfg addr p (r.count + 1) { ring := r, array := arr, frames := 0 }

/-- `SCAN p` (R210): the checks, the drain (R211), the loop (R212 to R220), the number of frames
committed (R221). -/
def execScan (p : Byte) (s : State) : Answer :=
  guarded ((s.portFault (chanNo p)).or s.addrFault) s <|
    let c := s.chan (chanNo p)
    let d := drain c.ring c.src
    let w := scanBuffer s.cfg s.localAddr (chanNo p) d.1 s.array
    .next (((s.setChan (chanNo p) { c with ring := w.ring, src := d.2 }).setArray w.array).respond
      .ok (countResult w.frames))

end Sys2Proof.Machine
end

