-- ==== Sys2Proof/Machine/SharedArray.lean ====
section
/-!
DEFINITION. The shared array's host commands (44_access_control.md): `RD_ARRAY`, `RD_FLAG`, `LIMIT`.
-/

namespace Sys2Proof.Machine

/-- R312 step 6 for `RD_ARRAY` and `RD_FLAG`: the index. -/
def indexFault (i : Nat) (s : State) : Option FaultCode :=
  faultUnless (i < s.cfg.arraySize) .indexRange

/-- `RD_ARRAY index` (R250): the value, and the dirty flag cleared. -/
def execRdArray (index : Half) (s : State) : Answer :=
  guarded (indexFault (u16 index) s) s <|
    let e := s.entry (u16 index)
    .next ((s.setEntry (u16 index) e.acknowledged).respond .ok e.value)

/-- `RD_FLAG index` (R252): the dirty flag, not cleared. -/
def execRdFlag (index : Half) (s : State) : Answer :=
  guarded (indexFault (u16 index) s) s <|
    .next (s.respond .ok (boolResult (s.entry (u16 index)).dirty))

/-- `LIMIT index, p` (R254): the owner replaced; an index out of range changes nothing. -/
def execLimit (index : Half) (p : Byte) (s : State) : Answer :=
  guarded (s.portFault (chanNo p)) s <|
    if u16 index < s.cfg.arraySize then
      .next ((s.setEntry (u16 index) ((s.entry (u16 index)).ownedBy (chanNo p))).respond .ok 0)
    else .next (s.respond .ok 0)

end Sys2Proof.Machine
end

