-- ==== Sys2Proof/Machine/Dispatch.lean ====
section
/-!
DEFINITION. What each command does: one arm per constructor, one meaning per arm.
-/

namespace Sys2Proof.Machine

def exec (i : Instr) (s : State) : Host.Outcome State Fault Refusal :=
  match i with
  -- control (46_control.md)
  | .nop => Sys2Proof.Machine.execNop s
  | .init addr => Sys2Proof.Machine.execInit addr s
  | .portOpen p capacity => Sys2Proof.Machine.execPortOpen p capacity s
  | .portClose p => Sys2Proof.Machine.execPortClose p s
  | .rdFault => Sys2Proof.Machine.execRdFault s
  -- ring buffer (40_ring_buffer.md)
  | .rbPush p byte => Sys2Proof.Machine.execRbPush p byte s
  | .rbPop p => Sys2Proof.Machine.execRbPop p s
  | .rbPeek p index => Sys2Proof.Machine.execRbPeek p index s
  | .rbSize p => Sys2Proof.Machine.execRbSize p s
  | .rbEmpty p => Sys2Proof.Machine.execRbEmpty p s
  | .rbFull p => Sys2Proof.Machine.execRbFull p s
  -- conversion (41_conversion.md)
  | .msbS value => Sys2Proof.Machine.execMsbS value s
  | .lsbS value => Sys2Proof.Machine.execLsbS value s
  | .msbU value => Sys2Proof.Machine.execMsbU value s
  | .lsbU value => Sys2Proof.Machine.execLsbU value s
  | .joinS m l => Sys2Proof.Machine.execJoinS m l s
  | .joinU m l => Sys2Proof.Machine.execJoinU m l s
  -- CRC (42_crc8.md)
  | .crcInit => Sys2Proof.Machine.execCrcInit s
  | .crcByte byte => Sys2Proof.Machine.execCrcByte byte s
  | .crcRead => Sys2Proof.Machine.execCrcRead s
  -- scanner (43_scanner.md)
  | .scan p => Sys2Proof.Machine.execScan p s
  -- shared array (44_access_control.md)
  | .rdArray index => Sys2Proof.Machine.execRdArray index s
  | .rdFlag index => Sys2Proof.Machine.execRdFlag index s
  | .limit index p => Sys2Proof.Machine.execLimit index p s
  -- framer (45_framer.md)
  | .queue index value => Sys2Proof.Machine.execQueue index value s
  | .clearPkt => Sys2Proof.Machine.execClearPkt s
  | .send p dest => Sys2Proof.Machine.execSend p dest s

end Sys2Proof.Machine
end

