-- ==== Sys2Proof/Machine/Step.lean ====
section
/-!
DEFINITION. One step of the machine: the oldest pending input is taken (30_encoding.md R100;
00_scope.md R5; log entries 1, 2, 9, 15).
-/

namespace Sys2Proof.Machine

/-- A command word issued by the host: decoded and executed, or refused with the fault of
30_encoding.md R103 or R106. -/
def runWord (w : CmdWord) (s : State) : Host.Outcome State Fault Refusal :=
  match decode w with
  | .ok i => exec i s
  | .error r => .next (s.raiseFault (rejectFault r))

/-- What one input does. -/
def runInput (i : Input) (s : State) : Host.Outcome State Fault Refusal :=
  match i with
  | .command w => runWord w s
  | .arrive p l => .next (s.arrive p l)
  | .take p n => .next (s.take p n)
  | .reset => .next s.resetEvent

/-- One step: the oldest pending input is taken off the list and done. With no input the block waits
for its host (70_reset_and_hazards.md R352; log entry 2). -/
def step (s : State) : Host.Outcome State Fault Refusal :=
  match s.pending with
  | [] => .next s
  | i :: rest => runInput i { s with pending := rest }

/-- `s` with the command of these bits issued next (log entry 1). The table gives every command its
48 bits, so the bits above `nbits` are zero. -/
def State.withFetchWord (s : State) (_nbits w : Nat) : State :=
  { s with pending := .command (BitVec.ofNat 48 w) :: s.pending }

end Sys2Proof.Machine
end

