-- ==== Sys2Proof/Machine/Assembler.lean ====
section
/-!
DEFINITION. The assembler syntax (30_encoding.md R107) and the pseudo-command `CRC_OF` (R108), from a
line of text to command words. Log entry 17 names what R107 leaves to the reader of a line.
-/

namespace Sys2Proof.Machine

/-! ## Operand numbers (R107) -/

/-- A byte operand or a channel number: 0 to 255, else an assembly error. -/
def asmByte (n : Int) : Option Byte :=
  if 0 ≤ n ∧ n ≤ 255 then some (BitVec.ofInt 8 n) else none

/-- An unsigned 16-bit operand: 0 to 65535, else an assembly error. -/
def asmHalf (n : Int) : Option Half :=
  if 0 ≤ n ∧ n ≤ 65535 then some (BitVec.ofInt 16 n) else none

/-- A signed 16-bit operand: -32768 to 65535, a negative number as its two's complement. -/
def asmSigned (n : Int) : Option Half :=
  if -32768 ≤ n ∧ n ≤ 65535 then some (BitVec.ofInt 16 n) else none

/-- `CRC_OF b0, ..., bn-1` (R108): `CRC_INIT`, then one `CRC_BYTE` for each byte. -/
def crcOf (l : List Byte) : List Instr := .crcInit :: l.map .crcByte

/-- The one command of an operand that must be in range. -/
def asmOne {α : Type} (x : Option α) (mk : α → Instr) : Option (List Instr) := x.map fun a => [mk a]

/-- The one command of two operands that must be in range. -/
def asmTwo {α β : Type} (x : Option α) (y : Option β) (mk : α → β → Instr) : Option (List Instr) :=
  x.bind fun a => y.map fun b => [mk a b]

/-- The command of a mnemonic and its operands, in the operand order of R107 (`LIMIT index, p` puts
`index` in `A` and `p` in `P`). `none` is an assembly error. -/
def assembleCommand (mnemonic : String) (ops : List Int) : Option (List Instr) :=
  match mnemonic, ops with
  | "NOP", [] => some [.nop]
  | "INIT", [addr] => asmOne (asmByte addr) .init
  | "PORT_OPEN", [p, capacity] => asmTwo (asmByte p) (asmHalf capacity) .portOpen
  | "PORT_CLOSE", [p] => asmOne (asmByte p) .portClose
  | "RD_FAULT", [] => some [.rdFault]
  | "RB_PUSH", [p, byte] => asmTwo (asmByte p) (asmByte byte) .rbPush
  | "RB_POP", [p] => asmOne (asmByte p) .rbPop
  | "RB_PEEK", [p, index] => asmTwo (asmByte p) (asmHalf index) .rbPeek
  | "RB_SIZE", [p] => asmOne (asmByte p) .rbSize
  | "RB_EMPTY", [p] => asmOne (asmByte p) .rbEmpty
  | "RB_FULL", [p] => asmOne (asmByte p) .rbFull
  | "MSB_S", [value] => asmOne (asmSigned value) .msbS
  | "LSB_S", [value] => asmOne (asmSigned value) .lsbS
  | "MSB_U", [value] => asmOne (asmHalf value) .msbU
  | "LSB_U", [value] => asmOne (asmHalf value) .lsbU
  | "JOIN_S", [m, l] => asmTwo (asmByte m) (asmByte l) .joinS
  | "JOIN_U", [m, l] => asmTwo (asmByte m) (asmByte l) .joinU
  | "CRC_INIT", [] => some [.crcInit]
  | "CRC_BYTE", [byte] => asmOne (asmByte byte) .crcByte
  | "CRC_READ", [] => some [.crcRead]
  | "SCAN", [p] => asmOne (asmByte p) .scan
  | "RD_ARRAY", [index] => asmOne (asmHalf index) .rdArray
  | "RD_FLAG", [index] => asmOne (asmHalf index) .rdFlag
  | "LIMIT", [index, p] => asmTwo (asmHalf index) (asmByte p) .limit
  | "QUEUE", [index, value] => asmTwo (asmHalf index) (asmSigned value) .queue
  | "CLEAR_PKT", [] => some [.clearPkt]
  | "SEND", [p, dest] => asmTwo (asmByte p) (asmByte dest) .send
  | _, _ => none

/-- The commands of a mnemonic or of the pseudo-command `CRC_OF` (R108), which takes any number of
bytes. -/
def assembleOps (mnemonic : String) (ops : List Int) : Option (List Instr) :=
  if mnemonic = "CRC_OF" then (ops.mapM asmByte).map crcOf else assembleCommand mnemonic ops

/-! ## The text of a line -/

/-- The value of a digit in the given base. -/
def digitOf (base : Nat) (c : Char) : Option Nat :=
  let n :=
    if '0' ≤ c ∧ c ≤ '9' then c.toNat - '0'.toNat
    else if 'a' ≤ c ∧ c ≤ 'f' then c.toNat - 'a'.toNat + 10
    else if 'A' ≤ c ∧ c ≤ 'F' then c.toNat - 'A'.toNat + 10
    else base
  if n < base then some n else none

/-- The digits of a number, most significant first, onto what was read before them. -/
def readDigits (base : Nat) : Nat → List Char → Option Nat
  | acc, [] => some acc
  | acc, c :: rest => (digitOf base c).bind fun d => readDigits base (base * acc + d) rest

/-- A nonempty number in the given base. -/
def readBase (base : Nat) : List Char → Option Nat
  | [] => none
  | l => readDigits base 0 l

/-- A number, decimal or `0x` hexadecimal (R107). -/
def readUnsigned : List Char → Option Nat
  | '0' :: 'x' :: rest => readBase 16 rest
  | l => readBase 10 l

/-- A number with an optional minus sign. -/
def readNumber : List Char → Option Int
  | '-' :: rest => (readUnsigned rest).map fun n => -(Int.ofNat n)
  | l => (readUnsigned l).map Int.ofNat

/-- The line without blanks before and after it. -/
def trimBlanks (l : List Char) : List Char :=
  ((l.dropWhile (· == ' ')).reverse.dropWhile (· == ' ')).reverse

/-- The pieces of a list between commas. -/
def splitCommas : List Char → List (List Char)
  | [] => [[]]
  | c :: rest =>
    match splitCommas rest with
    | [] => [[c]]
    | piece :: more => if c == ',' then [] :: piece :: more else (c :: piece) :: more

/-- The operand numbers of the text after the mnemonic. -/
def readOperands (l : List Char) : Option (List Int) :=
  if trimBlanks l = [] then some []
  else (splitCommas l).mapM fun piece => readNumber (trimBlanks piece)

/-- The command words of one line, or an assembly error (R107, R108). -/
def assembleLine (line : String) : Option (List CmdWord) :=
  let l := trimBlanks line.toList
  let word := l.takeWhile (· != ' ')
  (readOperands (l.dropWhile (· != ' '))).bind fun ops =>
    (assembleOps (String.ofList word) ops).map fun is => is.map encode

end Sys2Proof.Machine
end

