-- ==== Sys2Proof/Machine/ScannerFsm.lean ====
section
/-!
DEFINITION. The scanner a second time, as the state machine of 43_scanner.md R224 over the logical
content of the buffer (10_state.md R38): the document's own states, one transition at a time. `exec`
does not use it; `Obligations.ScanIsTheReassemblyMachine` says the two agree.
-/

namespace Sys2Proof.Machine

/-- The scanner's states (R224). -/
inductive ScanPhase where
  | draining
  | synchronizing
  | headerPending
  | bodyPending
  | crcCheck
  | commit
  | discard
  | returned
  deriving DecidableEq, Repr

/-- The scanner's state machine inside one `SCAN`: its state, the buffer's content, the source, the
shared array, the frames committed. -/
structure ScanFsm where
  phase : ScanPhase
  q : List Byte
  src : List Byte
  array : List Entry
  frames : Nat
  deriving DecidableEq, Repr

/-- Where the machine goes once bytes were added or removed: on with synchronizing, or back to the
host when the buffer is empty (R212). -/
def phaseAfter (q : List Byte) : ScanPhase := if q = [] then .returned else .synchronizing

/-- One transition (R224), in a channel `p` with buffer capacity `cap`. -/
def fsmStep (cfg : Config) (addr : Byte) (p cap : Nat) (x : ScanFsm) : ScanFsm :=
  match x.phase with
  | .draining =>
    let k := min x.src.length (cap - x.q.length)
    { x with q := x.q ++ x.src.take k, src := x.src.drop k, phase := phaseAfter (x.q ++ x.src.take k) }
  | .synchronizing => { x with q := x.q.dropWhile (· != header0), phase := .headerPending }
  | .headerPending =>
    if x.q.length < headerSize then { x with phase := .returned }
    else if headerValid cfg addr x.q then { x with phase := .bodyPending }
    else { x with q := x.q.drop 1, phase := .synchronizing }
  | .bodyPending =>
    if x.q.length < frameSize x.q then { x with phase := .returned } else { x with phase := .crcCheck }
  | .crcCheck => { x with phase := if crcAgrees x.q then .commit else .discard }
  | .commit =>
    { x with
      array := commitFrame cfg p x.array x.q
      q := x.q.drop (frameSize x.q)
      frames := x.frames + 1
      phase := phaseAfter (x.q.drop (frameSize x.q)) }
  | .discard => { x with q := x.q.drop 1, phase := phaseAfter (x.q.drop 1) }
  | .returned => x

/-- `n` transitions. -/
def fsmRun (cfg : Config) (addr : Byte) (p cap : Nat) : Nat → ScanFsm → ScanFsm
  | 0, x => x
  | n + 1, x => fsmRun cfg addr p cap n (fsmStep cfg addr p cap x)

end Sys2Proof.Machine
end

