-- ==== Sys2Proof/Safety.lean ====
section
/-!
DEFINITION. The invariant of the machine, and the words in which statements about it are written:
commands run in sequence, the access table of 10_state.md R50, the causes of faults of
60_exceptions.md R311, states no command can tell apart (10_state.md R38, R46, R49), what a
mnemonic assembles to (30_encoding.md R107), and the CRC table of 42_crc8.md section 3.
-/

namespace Sys2Proof.Machine

/-! ## The invariant -/

/-- A ring buffer in its ranges (10_state.md R32, R37). -/
abbrev RingBuf.Wf (maxCap : Nat) (r : RingBuf) : Prop :=
  (1 ≤ r.cap ∧ r.cap ≤ maxCap) ∧ r.slot.length = r.cap ∧ r.head < r.cap ∧ r.count ≤ r.cap

/-- A channel in its ranges; a closed one holds no byte (10_state.md R49; 46_control.md R296). -/
abbrev Channel.Wf (cfg : Config) (c : Channel) : Prop :=
  c.ring.Wf cfg.rbMaxCap ∧ (c.isOpen = false → c.ring.count = 0)

/-- An owner is a channel of the block (10_state.md R41). -/
abbrev Entry.Wf (cfg : Config) (e : Entry) : Prop := e.owner.all (fun q => decide (q < cfg.nports))

/-- A response in the form of 30_encoding.md R104: only `OK` carries a value. -/
abbrev Response.Wf (r : Response) : Prop := r.status = .ok ∨ r.result = 0

/-- Every element is in the range 10_state.md R32, R35, R37, R41, R42 and R45 give it. -/
abbrev State.Inv (s : State) : Prop :=
  s.cfg.Legal ∧
  (s.chans.length = s.cfg.nports ∧ ∀ c ∈ s.chans, c.Wf s.cfg) ∧
  (s.array.length = s.cfg.arraySize ∧ ∀ e ∈ s.array, e.Wf s.cfg) ∧
  s.faultstat &&& ~~~ 0x07FE#16 = 0 ∧
  (s.stage.length % 4 = 0 ∧ s.stage.length ≤ min s.cfg.mxPacketSize 255) ∧
  ∀ r ∈ s.response.toList, r.Wf

/-! ## Answers -/

/-- Channel `p` exists and is open. -/
abbrev State.PortOk (s : State) (p : Byte) : Prop :=
  p.toNat < s.cfg.nports ∧ (s.chan p.toNat).isOpen = true

/-- The state after a fault, by 60_exceptions.md R316. -/
def State.faulted (s : State) (f : FaultCode) : State :=
  { s with
    faultstat := s.faultstat ||| (1#16 <<< (f.code.toNat - 0x80))
    response := some { status := .fault f, result := 0 } }

/-- The state after a command that answers `OK` with this result and changes nothing. -/
def State.answered (s : State) (v : Half) : State :=
  { s with response := some { status := .ok, result := v } }

/-- The command faults with `f` in this state, by 60_exceptions.md R316. -/
def FaultsWith (i : Instr) (s : State) (f : FaultCode) : Prop := exec i s = .next (s.faulted f)

/-- Steps 3 and 4 of 60_exceptions.md R312 for a command that needs channel `p` open. -/
def PortChecks (i : Instr) (p : Byte) (s : State) : Prop :=
  (s.cfg.nports ≤ p.toNat → FaultsWith i s .badPort) ∧
    (p.toNat < s.cfg.nports → (s.chan p.toNat).isOpen = false → FaultsWith i s .portClosed)

/-- The words with this opcode (30_encoding.md R102, R103): where `zeros` holds of the fields P, A, B
they are the command `mk` reads from the fields; elsewhere a reserved bit is 1, and the block answers
`F_RESERVED`. -/
def DecodesAs (opc : Byte) (zeros : Byte → Half → Half → Bool) (mk : Byte → Half → Half → Instr) :
    Prop :=
  ∀ p a b,
    (zeros p a b = true → decode (cmdWord opc p a b) = .ok (mk p a b)) ∧
      (zeros p a b = false → ∀ (s : State) (rest : List Input),
        s.pending = .command (cmdWord opc p a b) :: rest →
          step s = .next (State.faulted { s with pending := rest } .reserved))

/-- The response is a fault's. -/
def Response.faults (r : Response) : Bool :=
  match r.status with
  | .fault _ => true
  | _ => false

/-- The commands of a list executed one after the other, with their responses. -/
def runAll : List Instr → State → Option (List Response × State)
  | [], s => some ([], s)
  | i :: rest, s =>
    match exec i s with
    | .next t =>
      match t.response, runAll rest t with
      | some r, some (rs, u) => some (r :: rs, u)
      | _, _ => none
    | _ => none

/-! ## Channels and faults of a command (60_exceptions.md R311, R312) -/

/-- The channel number a command takes, if it takes one (30_encoding.md R105, column P). -/
def channelOf : Instr → Option Nat
  | .portOpen p _ | .portClose p | .rbPush p _ | .rbPop p | .rbPeek p _ | .rbSize p | .rbEmpty p
  | .rbFull p | .scan p | .limit _ p | .send p _ => some p.toNat
  | .nop | .init _ | .rdFault | .msbS _ | .lsbS _ | .msbU _ | .lsbU _ | .joinS _ _ | .joinU _ _
  | .crcInit | .crcByte _ | .crcRead | .rdArray _ | .rdFlag _ | .queue _ _ | .clearPkt => none

/-- The command needs its channel closed: `PORT_OPEN` alone. -/
def needsClosed : Instr → Bool
  | .portOpen _ _ => true
  | _ => false

/-- The command needs the local address: `SCAN` and `SEND`. -/
def needsAddr : Instr → Bool
  | .scan _ | .send _ _ => true
  | _ => false

/-- The cause column of 60_exceptions.md R311 for a command that decoded. -/
def hasCause (i : Instr) (s : State) : FaultCode → Bool
  | .illegalOpcode => false
  | .reserved => false
  | .badPort => (channelOf i).any fun p => decide (s.cfg.nports ≤ p)
  | .portClosed => !needsClosed i && (channelOf i).any fun p => !(s.chan p).isOpen
  | .portOpen => needsClosed i && (channelOf i).any fun p => (s.chan p).isOpen
  | .notInit => needsAddr i && !s.addrValid
  | .badCapacity =>
    match i with
    | .portOpen _ c => c.toNat = 0 || decide (s.cfg.rbMaxCap < c.toNat)
    | _ => false
  | .rbEmpty =>
    match i with
    | .rbPop p => (s.chan p.toNat).ring.count = 0
    | _ => false
  | .peekRange =>
    match i with
    | .rbPeek p a => decide ((s.chan p.toNat).ring.count ≤ a.toNat)
    | _ => false
  | .indexRange =>
    match i with
    | .rdArray a | .rdFlag a => decide (s.cfg.arraySize ≤ a.toNat)
    | _ => false

/-- The fault codes in the order of the checks of 60_exceptions.md R312. -/
def checkOrder : List FaultCode :=
  [.illegalOpcode, .reserved, .badPort, .portClosed, .portOpen, .notInit, .badCapacity, .rbEmpty,
    .peekRange, .indexRange]

/-- The first failing check of a command that decoded (60_exceptions.md R312). -/
def firstFault (i : Instr) (s : State) : Option FaultCode := checkOrder.find? (hasCause i s)

/-! ## The access table (10_state.md R50) -/

/-- The columns of the access table, the per-channel ones with their channel. -/
inductive Element where
  | addr
  | crcAcc
  | faultstat
  | openCap (p : Nat)
  | ring (p : Nat)
  | array
  | dirty
  | owner
  | stage
  | src (p : Nat)
  | snk (p : Nat)
  deriving DecidableEq, Repr

/-- The element is the same in both states. -/
def Element.Same (s t : State) : Element → Prop
  | .addr => t.addrValid = s.addrValid ∧ t.localAddr = s.localAddr
  | .crcAcc => t.crcAcc = s.crcAcc
  | .faultstat => t.faultstat = s.faultstat
  | .openCap p => (t.chan p).isOpen = (s.chan p).isOpen ∧ (t.chan p).ring.cap = (s.chan p).ring.cap
  | .ring p =>
    (t.chan p).ring.slot = (s.chan p).ring.slot ∧ (t.chan p).ring.head = (s.chan p).ring.head ∧
      (t.chan p).ring.count = (s.chan p).ring.count
  | .array => ∀ i, (t.entry i).value = (s.entry i).value
  | .dirty => ∀ i, (t.entry i).dirty = (s.entry i).dirty
  | .owner => ∀ i, (t.entry i).owner = (s.entry i).owner
  | .stage => t.stage = s.stage
  | .src p => (t.chan p).src = (s.chan p).src
  | .snk p => (t.chan p).snk = (s.chan p).snk

/-- The elements a command that does not fault may write: the `W` entries of its row. -/
def mayWrite : Instr → List Element
  | .init _ => [.addr]
  | .portOpen p _ => [.openCap p.toNat, .ring p.toNat]
  | .portClose p => [.openCap p.toNat, .ring p.toNat]
  | .rbPush p _ => [.ring p.toNat]
  | .rbPop p => [.ring p.toNat]
  | .crcInit => [.crcAcc]
  | .crcByte _ => [.crcAcc]
  | .scan p => [.ring p.toNat, .array, .dirty, .src p.toNat]
  | .rdArray _ => [.dirty]
  | .limit _ _ => [.owner]
  | .queue _ _ => [.stage]
  | .clearPkt => [.stage]
  | .send p _ => [.stage, .snk p.toNat]
  | .nop | .rdFault | .rbPeek _ _ | .rbSize _ | .rbEmpty _ | .rbFull _ | .msbS _ | .lsbS _ | .msbU _
  | .lsbU _ | .joinS _ _ | .joinU _ _ | .crcRead | .rdFlag _ => []

/-- The commands of 20_memory.md R78 that "change no state and may be repeated with the same
result". -/
def changesNothing : Instr → Bool
  | .nop | .rdFault | .rbPeek _ _ | .rbSize _ | .rbEmpty _ | .rbFull _ | .msbS _ | .lsbS _ | .msbU _
  | .lsbU _ | .joinS _ _ | .joinU _ _ | .crcRead | .rdFlag _ => true
  | .init _ | .portOpen _ _ | .portClose _ | .rbPush _ _ | .rbPop _ | .crcInit | .crcByte _ | .scan _
  | .rdArray _ | .limit _ _ | .queue _ _ | .clearPkt | .send _ _ => false

/-! ## States no command can tell apart (10_state.md R38, R46, R49) -/

/-- Two channels with the same open bit and boundary queues and, while open, the same capacity and
the same logical content: `HEAD` and the slots outside the content may differ. -/
def Channel.Agree (c d : Channel) : Prop :=
  c.isOpen = d.isOpen ∧ c.src = d.src ∧ c.snk = d.snk ∧
    (c.isOpen = true → c.ring.cap = d.ring.cap ∧ c.ring.q = d.ring.q)

/-- Two states that differ only where the spec says no command observes: `HEAD`, dead slots,
everything but the queues of a closed channel, and `LOCAL_ADDR` while `ADDR_VALID = 0`. -/
def State.Agree (s u : State) : Prop :=
  s.cfg = u.cfg ∧ s.addrValid = u.addrValid ∧ (s.addrValid = true → s.localAddr = u.localAddr) ∧
    s.crcAcc = u.crcAcc ∧ s.faultstat = u.faultstat ∧ (∀ p, (s.chan p).Agree (u.chan p)) ∧
    s.array = u.array ∧ s.stage = u.stage ∧ s.pending = u.pending ∧ s.response = u.response

/-! ## Ring-buffer operations in sequence (40_ring_buffer.md R146) -/

/-- A push of a byte, or a pop. -/
def ringOp (p : Byte) : Option Byte → Instr
  | some b => .rbPush p b
  | none => .rbPop p

/-- The operation was neither a push onto a full buffer nor a pop from an empty one. -/
def accepted (op : Option Byte) (r : Response) : Bool :=
  match op with
  | some _ => r == { status := .ok, result := 1 }
  | none => r.status == .ok

/-- The bytes pushed, in order. -/
def pushedBytes (ops : List (Option Byte)) : List Byte := ops.filterMap id

/-- The bytes popped, in order: the low bytes of the pops' results. -/
def poppedBytes : List (Option Byte) → List Response → List Byte
  | none :: ops, r :: rs => r.result.setWidth 8 :: poppedBytes ops rs
  | some _ :: ops, _ :: rs => poppedBytes ops rs
  | _, _ => []

/-! ## Frames (43_scanner.md R223, R226; 45_framer.md R271) -/

/-- The bytes of a list of (index, value) entries, each index then value, most significant byte
first. -/
def entriesBytes (es : List (Half × Half)) : List Byte :=
  es.flatMap fun e =>
    [e.1.extractLsb' 8 8, e.1.extractLsb' 0 8, e.2.extractLsb' 8 8, e.2.extractLsb' 0 8]

/-- A shared array after an entry received on channel `p` (43_scanner.md R219): value written and
flag set if the index is in range and the owner is none or `p`, else unchanged. -/
def applyEntry (arraySize p : Nat) (arr : List Entry) (e : Half × Half) : List Entry :=
  let old := arr.getD e.1.toNat Entry.atReset
  if e.1.toNat < arraySize ∧ (old.owner = none ∨ old.owner = some p) then
    arr.set e.1.toNat { value := e.2, dirty := true, owner := old.owner }
  else arr

/-- A valid header (43_scanner.md R214) at the front of a byte list of at least five bytes. -/
def ValidHeader (cfg : Config) (addr : Byte) (q : List Byte) : Prop :=
  q[0]? = some 0x06 ∧ q[1]? = some 0x85 ∧ q[3]? = some addr ∧
    ∃ len : Byte, q[4]? = some len ∧ len.toNat % 4 = 0 ∧ len.toNat + 6 ≤ cfg.mxPacketSize

/-! ## The assembler (30_encoding.md R107) -/

/-- A byte operand or a channel number in its range. -/
abbrev ByteRange (n : Int) : Prop := 0 ≤ n ∧ n ≤ 255

/-- An unsigned 16-bit operand in its range. -/
abbrev HalfRange (n : Int) : Prop := 0 ≤ n ∧ n ≤ 65535

/-- A signed 16-bit operand in its range. -/
abbrev SignedRange (n : Int) : Prop := -32768 ≤ n ∧ n ≤ 65535

/-- The command words a mnemonic with its operands assembles to. -/
def asmWords (name : String) (ops : List Int) : Option (List CmdWord) :=
  (assembleOps name ops).map fun is => is.map encode

/-- A mnemonic with one operand: in range it assembles to one word, else it is an assembly error. -/
def AssemblesOne (name : String) (ok : Int → Prop) (w : Int → CmdWord) : Prop :=
  ∀ n : Int, (ok n → asmWords name [n] = some [w n]) ∧ (¬ ok n → asmWords name [n] = none)

/-- A mnemonic with two operands: both in range it assembles to one word, else it is an assembly
error. -/
def AssemblesTwo (name : String) (ok₁ ok₂ : Int → Prop) (w : Int → Int → CmdWord) : Prop :=
  ∀ m n : Int, (ok₁ m → ok₂ n → asmWords name [m, n] = some [w m n]) ∧
    (¬ (ok₁ m ∧ ok₂ n) → asmWords name [m, n] = none)

/-! ## The table of single-byte CRCs (42_crc8.md section 3) -/

/-- Rows 0_ to 7_ of the table. -/
def crcTableLow : List Nat := [
  0x00, 0x5E, 0xBC, 0xE2, 0x61, 0x3F, 0xDD, 0x83, 0xC2, 0x9C, 0x7E, 0x20, 0xA3, 0xFD, 0x1F, 0x41,
  0x9D, 0xC3, 0x21, 0x7F, 0xFC, 0xA2, 0x40, 0x1E, 0x5F, 0x01, 0xE3, 0xBD, 0x3E, 0x60, 0x82, 0xDC,
  0x23, 0x7D, 0x9F, 0xC1, 0x42, 0x1C, 0xFE, 0xA0, 0xE1, 0xBF, 0x5D, 0x03, 0x80, 0xDE, 0x3C, 0x62,
  0xBE, 0xE0, 0x02, 0x5C, 0xDF, 0x81, 0x63, 0x3D, 0x7C, 0x22, 0xC0, 0x9E, 0x1D, 0x43, 0xA1, 0xFF,
  0x46, 0x18, 0xFA, 0xA4, 0x27, 0x79, 0x9B, 0xC5, 0x84, 0xDA, 0x38, 0x66, 0xE5, 0xBB, 0x59, 0x07,
  0xDB, 0x85, 0x67, 0x39, 0xBA, 0xE4, 0x06, 0x58, 0x19, 0x47, 0xA5, 0xFB, 0x78, 0x26, 0xC4, 0x9A,
  0x65, 0x3B, 0xD9, 0x87, 0x04, 0x5A, 0xB8, 0xE6, 0xA7, 0xF9, 0x1B, 0x45, 0xC6, 0x98, 0x7A, 0x24,
  0xF8, 0xA6, 0x44, 0x1A, 0x99, 0xC7, 0x25, 0x7B, 0x3A, 0x64, 0x86, 0xD8, 0x5B, 0x05, 0xE7, 0xB9 ]

/-- Rows 8_ to F_ of the table. -/
def crcTableHigh : List Nat := [
  0x8C, 0xD2, 0x30, 0x6E, 0xED, 0xB3, 0x51, 0x0F, 0x4E, 0x10, 0xF2, 0xAC, 0x2F, 0x71, 0x93, 0xCD,
  0x11, 0x4F, 0xAD, 0xF3, 0x70, 0x2E, 0xCC, 0x92, 0xD3, 0x8D, 0x6F, 0x31, 0xB2, 0xEC, 0x0E, 0x50,
  0xAF, 0xF1, 0x13, 0x4D, 0xCE, 0x90, 0x72, 0x2C, 0x6D, 0x33, 0xD1, 0x8F, 0x0C, 0x52, 0xB0, 0xEE,
  0x32, 0x6C, 0x8E, 0xD0, 0x53, 0x0D, 0xEF, 0xB1, 0xF0, 0xAE, 0x4C, 0x12, 0x91, 0xCF, 0x2D, 0x73,
  0xCA, 0x94, 0x76, 0x28, 0xAB, 0xF5, 0x17, 0x49, 0x08, 0x56, 0xB4, 0xEA, 0x69, 0x37, 0xD5, 0x8B,
  0x57, 0x09, 0xEB, 0xB5, 0x36, 0x68, 0x8A, 0xD4, 0x95, 0xCB, 0x29, 0x77, 0xF4, 0xAA, 0x48, 0x16,
  0xE9, 0xB7, 0x55, 0x0B, 0x88, 0xD6, 0x34, 0x6A, 0x2B, 0x75, 0x97, 0xC9, 0x4A, 0x14, 0xF6, 0xA8,
  0x74, 0x2A, 0xC8, 0x96, 0x15, 0x4B, 0xA9, 0xF7, 0xB6, 0xE8, 0x0A, 0x54, 0xD7, 0x89, 0x6B, 0x35 ]

/-- `T[x]`, the CRC of the single byte `x`, as the spec tabulates it. -/
def crcTable (x : Byte) : Byte := BitVec.ofNat 8 ((crcTableLow ++ crcTableHigh).getD x.toNat 0)

end Sys2Proof.Machine
end

