-- ==== Sys2Proof/Certificates/Slice0/Obligations.lean ====
section
/-!
DEFINITION. The statements for the provers. Each docstring names the rule of spec/ it formalises.
-/

open Sys2Proof Sys2Proof.Machine

/-! ## Encoding -/

/-- R101, R102, R105: a command's word decodes to the command, every operand at every value. -/
def Obligations.DecodeOfEncodeIsTheCommand : Prop := ∀ i : Instr, decode (encode i) = .ok i

/-- R101 to R103: a word has one meaning, and every bit of it is accounted for. -/
def Obligations.EncodeOfDecodeIsTheWord : Prop :=
  ∀ (w : CmdWord) (i : Instr), decode w = .ok i → encode i = w

/-- R105: "A word matches a command when `(word & mask) = match`". -/
def Obligations.CommandsAreTheWordsOfTheMap : Prop :=
  ∀ w : CmdWord, (∃ i, decode w = .ok i) ↔ ∃ r ∈ opRows, w &&& r.mask = r.pat

/-- R106: the opcodes outside the map, as the rule lists them, are refused with `F_ILLEGAL_OPCODE`. -/
def Obligations.FreeOpcodesAreIllegal : Prop :=
  let free (n : Nat) : Prop :=
    (0x05 ≤ n ∧ n ≤ 0x0F) ∨ (0x16 ≤ n ∧ n ≤ 0x1F) ∨ (0x26 ≤ n ∧ n ≤ 0x2F) ∨ (0x33 ≤ n ∧ n ≤ 0x3F) ∨
      (0x41 ≤ n ∧ n ≤ 0x4F) ∨ (0x53 ≤ n ∧ n ≤ 0x5F) ∨ (0x63 ≤ n ∧ n ≤ 0xFF)
  (∀ opc : Byte, free opc.toNat ↔ ∀ r ∈ opRows, r.pat.extractLsb' 40 8 ≠ opc) ∧
    ∀ (s : State) (rest : List Input) (opc p : Byte) (a b : Half),
      free opc.toNat → s.pending = .command (cmdWord opc p a b) :: rest →
        step s = .next (State.faulted { s with pending := rest } .illegalOpcode)

/-- R103: a nonzero bit in a must-be-zero position is refused with `F_RESERVED`. -/
def Obligations.NonzeroReservedBitsFault : Prop :=
  ∀ (s : State) (rest : List Input) (w : CmdWord) (r : OpRow),
    r ∈ opRows → w.extractLsb' 40 8 = r.pat.extractLsb' 40 8 → w &&& r.mask ≠ r.pat →
      s.pending = .command w :: rest →
        step s = .next (State.faulted { s with pending := rest } .reserved)

/-- R101, R105: words of 95_test_vectors.md, one or more a family, read as the commands they list. -/
def Obligations.VectorWordsAreTheirCommands : Prop :=
  decode 0x000000000000 = .ok .nop ∧ decode 0x010000010000 = .ok (.init 0x01) ∧
    decode 0x020100030000 = .ok (.portOpen 1 3) ∧ decode 0x100000420000 = .ok (.rbPush 0 0x42) ∧
    decode 0x1200FFFF0000 = .ok (.rbPeek 0 0xFFFF) ∧ decode 0x2000B1E00000 = .ok (.msbS 0xB1E0) ∧
    decode 0x240000B100E0 = .ok (.joinS 0xB1 0xE0) ∧ decode 0x310000390000 = .ok (.crcByte 0x39) ∧
    decode 0x400100000000 = .ok (.scan 1) ∧ decode 0x520100030000 = .ok (.limit 3 1) ∧
    decode 0x60000007FFF6 = .ok (.queue 7 0xFFF6) ∧ decode 0x620000090000 = .ok (.send 0 0x09) ∧
    decode 0x240000010100 = .error .reserved ∧ decode 0xFF0000000000 = .error .illegalOpcode

/-- R75: on a byte-wide bus a command word goes most significant byte first. -/
def Obligations.CommandBytesGoMostSignificantFirst : Prop :=
  (∀ (opc p : Byte) (a b : Half),
      (wordBytes (cmdWord opc p a b)).map BitVec.toNat =
        [opc.toNat, p.toNat, a.toNat / 256, a.toNat % 256, b.toNat / 256, b.toNat % 256]) ∧
    ∀ w : CmdWord,
      (∀ i, decode w = .ok i → decodeBytes (wordBytes w) = .ok i) ∧
        ∀ r, decode w = .error r → decodeBytes (wordBytes w) = .error (.word r)

/-- R104, R311: the response word and the status codes there are. -/
def Obligations.ResponseWordLayout : Prop :=
  (∀ r : Response, r.word.toNat = r.status.code.toNat * 65536 + r.result.toNat) ∧
    Status.code .ok = 0x00 ∧ Status.code .stageFull = 0x01 ∧
    checkOrder.map FaultCode.code =
      [0x81, 0x82, 0x83, 0x84, 0x85, 0x86, 0x87, 0x88, 0x89, 0x8A] ∧
    ∀ st : Status, st = .ok ∨ st = .stageFull ∨ ∃ f ∈ checkOrder, st = .fault f

/-! ## The step -/

/-- R100: a command word at the head of the inputs is taken off and its command executed. -/
def Obligations.StepRunsTheDecodedCommand : Prop :=
  ∀ (s : State) (rest : List Input) (w : CmdWord) (i : Instr),
    s.pending = .command w :: rest → decode w = .ok i → step s = exec i { s with pending := rest }

/-- R5, R352 and log entries 2, 9 and 15: the environment's actions change one queue of one channel, a
block with no input waits, and the reset event takes one input and leaves no response. -/
def Obligations.EnvironmentActsOnItsQueuesOnly : Prop :=
  (∀ (s : State) (rest : List Input) (p : Nat) (l : List Byte), s.pending = .arrive p l :: rest →
      step s = .next { s with
        pending := rest
        chans := s.chans.set p { s.chan p with src := (s.chan p).src ++ l } }) ∧
    (∀ (s : State) (rest : List Input) (p n : Nat), s.pending = .take p n :: rest →
      step s = .next { s with
        pending := rest
        chans := s.chans.set p { s.chan p with snk := (s.chan p).snk.drop n } }) ∧
    (∀ s : State, s.pending = [] → step s = .next s) ∧
    ∀ (s : State) (rest : List Input), s.pending = .reset :: rest →
      ∃ t, step s = .next t ∧ t.pending = rest ∧ t.response = none

/-- R100, R104, R317: every command in every state is answered with a next state and a response, and
every step leads to a next state: nothing stops the block. -/
def Obligations.EveryCommandIsAnswered : Prop :=
  (∀ (i : Instr) (s : State), ∃ t r,
      exec i s = .next t ∧ t.response = some r ∧ t.pending = s.pending ∧ t.cfg = s.cfg) ∧
    ∀ s : State, ∃ t, step s = .next t

/-! ## Faults -/

/-- R314 to R316: a faulting command, refused word or executed command, latches its bit, answers its
code with result 0, and changes nothing else. -/
def Obligations.FaultChangesOnlyTheLatch : Prop :=
  (∀ (i : Instr) (s t : State) (f : FaultCode) (v : Half),
      exec i s = .next t → t.response = some { status := .fault f, result := v } →
        t = s.faulted f) ∧
    ∀ (s t : State) (rest : List Input) (w : CmdWord) (f : FaultCode) (v : Half),
      s.pending = .command w :: rest → step s = .next t →
        t.response = some { status := .fault f, result := v } →
          t = State.faulted { s with pending := rest } f

/-- R312: opcode, reserved bits, channel number, channel state, local address, operand range: the
first failing check gives the one fault, and a command that passes them all does not fault. -/
def Obligations.FirstFailingCheckIsReported : Prop :=
  ∀ (s : State) (rest : List Input) (w : CmdWord), s.pending = .command w :: rest →
    (opcodeLegal w = false →
        step s = .next (State.faulted { s with pending := rest } .illegalOpcode)) ∧
      (opcodeLegal w = true → wordWellFormed w = false →
        step s = .next (State.faulted { s with pending := rest } .reserved)) ∧
      (wordWellFormed w = true → ∃ i, decode w = .ok i ∧
        (∀ f, firstFault i { s with pending := rest } = some f →
          step s = .next (State.faulted { s with pending := rest } f)) ∧
        (firstFault i { s with pending := rest } = none →
          ∃ t r, step s = .next t ∧ t.response = some r ∧ r.faults = false))

/-- R317, R35: a latched bit stays until the reset event. -/
def Obligations.FaultBitsStayUntilReset : Prop :=
  ∀ (s t : State) (n : Nat), step s = .next t → s.pending.head? ≠ some .reset →
    s.faultstat.getLsbD n = true → t.faultstat.getLsbD n = true

/-- R317: after a fault the block executes the next command by its rule, whatever the latch holds. -/
def Obligations.FaultLatchDoesNotSteerCommands : Prop :=
  ∀ (i : Instr) (s t : State) (v : Half), i ≠ .rdFault → exec i s = .next t →
    ∃ u, exec i { s with faultstat := v } = .next u ∧ u = { t with faultstat := u.faultstat }

/-! ## The invariant and reset -/

/-- R35, R37, R41, R42, R45, R104: every step keeps every element in its range. -/
def Obligations.StepKeepsInvariant : Prop :=
  ∀ s t : State, s.Inv → step s = .next t → t.Inv

/-- R49 in the ranges of R8, R32: the block of any legal configuration starts inside the invariant. -/
def Obligations.PowerOnMeetsInvariant : Prop :=
  (∀ c : Config, c.Legal → (State.init c).Inv) ∧ State.reset.Inv

/-- R49, R351: the values of every element the spec gives one, after the reset event in any state and
after power-on in any configuration; the reset event leaves the configuration and the boundary
queues. -/
def Obligations.ResetValues : Prop :=
  let clean (t : State) : Prop :=
    t.addrValid = false ∧ t.crcAcc = 0 ∧ t.faultstat = 0 ∧ t.stage = [] ∧
      (∀ p, (t.chan p).isOpen = false ∧ (t.chan p).ring.count = 0) ∧
      ∀ i, t.entry i = { value := 0, dirty := false, owner := none }
  (∀ (s : State) (rest : List Input), s.pending = .reset :: rest →
      ∃ t, step s = .next t ∧ clean t ∧ t.cfg = s.cfg ∧
        t.chans.length = s.chans.length ∧ t.array.length = s.array.length ∧
        ∀ p, (t.chan p).src = (s.chan p).src ∧ (t.chan p).snk = (s.chan p).snk) ∧
    ∀ c : Config, clean (State.init c) ∧ (State.init c).cfg = c

/-! ## Frames and whole-machine rules -/

/-- R50 (the `W` entries): a command that does not fault leaves every element outside its row as it
was. -/
def Obligations.CommandsWriteOnlyTheirElements : Prop :=
  ∀ (i : Instr) (s t : State) (r : Response),
    exec i s = .next t → t.response = some r → r.faults = false →
      (∀ e, e ∉ mayWrite i → e.Same s t) ∧ t.cfg = s.cfg ∧ t.pending = s.pending ∧
        t.chans.length = s.chans.length ∧ t.array.length = s.array.length

/-- R78: the commands it lists change no state but the response and may be repeated with the same
result. -/
def Obligations.RepeatableCommandsChangeNothing : Prop :=
  ∀ (i : Instr) (s : State), changesNothing i = true →
    ∃ t r, exec i s = .next t ∧ t.response = some r ∧
      (r.faults = false → r.status = .ok ∧ t = s.answered r.result ∧ exec i t = .next t)

/-- R251: only `RD_ARRAY` of its index, or reset, clears a dirty flag. -/
def Obligations.DirtyFlagsClearOnlyOnReadOrReset : Prop :=
  ∀ (s t : State) (j : Nat), step s = .next t →
    (s.entry j).dirty = true → (t.entry j).dirty = false →
      s.pending.head? = some .reset ∨
        ∃ (w : CmdWord) (index : Half), s.pending.head? = some (.command w) ∧
          decode w = .ok (.rdArray index) ∧ index.toNat = j

/-- R39, R40, R71, R253: an array value changes only by reset or by a `SCAN` of a channel the entry's
owner lets write it, and a value so changed is marked unread. -/
def Obligations.ValuesChangeOnlyByPermittedFrames : Prop :=
  ∀ (s t : State) (j : Nat), step s = .next t → (t.entry j).value ≠ (s.entry j).value →
    s.pending.head? = some .reset ∨
      ∃ (w : CmdWord) (p : Byte), s.pending.head? = some (.command w) ∧ decode w = .ok (.scan p) ∧
        ((s.entry j).owner = none ∨ (s.entry j).owner = some p.toNat) ∧ (t.entry j).dirty = true

/-- R41, R297: an owner changes only by a `LIMIT` of its index, to the channel it names, or by reset,
to none. -/
def Obligations.OwnersChangeOnlyByLimitOrReset : Prop :=
  ∀ (s t : State) (j : Nat), step s = .next t → (t.entry j).owner ≠ (s.entry j).owner →
    (s.pending.head? = some .reset ∧ (t.entry j).owner = none) ∨
      ∃ (w : CmdWord) (index : Half) (p : Byte), s.pending.head? = some (.command w) ∧
        decode w = .ok (.limit index p) ∧ index.toNat = j ∧ (t.entry j).owner = some p.toNat

/-- R84, R225: a command neither reads nor writes any per-channel state of a channel it does not name:
with that channel replaced by any other, it does the same to everything else. -/
def Obligations.ChannelsAreIndependent : Prop :=
  ∀ (i : Instr) (s t : State) (q : Nat) (c : Channel), channelOf i ≠ some q → exec i s = .next t →
    t.chan q = s.chan q ∧
      exec i { s with chans := s.chans.set q c } = .next { t with chans := t.chans.set q c }

/-! ## Control commands -/

/-- R290. -/
def Obligations.NopAnswersZero : Prop :=
  DecodesAs 0x00 (fun p a b => p == 0 && a == 0 && b == 0) (fun _ _ _ => .nop) ∧
    ∀ s : State, exec .nop s = .next (s.answered 0)

/-- R292, R293. -/
def Obligations.InitSetsOnlyTheAddress : Prop :=
  DecodesAs 0x01 (fun p a b => p == 0 && decide (a.toNat < 256) && b == 0)
      (fun _ a _ => .init (a.setWidth 8)) ∧
    ∀ (addr : Byte) (s : State),
      exec (.init addr) s =
        .next (State.answered { s with localAddr := addr, addrValid := true } 0)

/-- R294. What the new slots hold is any value (log entry 7). -/
def Obligations.PortOpenMakesAnEmptyBuffer : Prop :=
  DecodesAs 0x02 (fun _ _ b => b == 0) (fun p a _ => .portOpen p a) ∧
    ∀ (p : Byte) (c : Half) (s : State),
      (s.cfg.nports ≤ p.toNat → FaultsWith (.portOpen p c) s .badPort) ∧
      (p.toNat < s.cfg.nports → (s.chan p.toNat).isOpen = true →
        FaultsWith (.portOpen p c) s .portOpen) ∧
      (p.toNat < s.cfg.nports → (s.chan p.toNat).isOpen = false →
        (c.toNat = 0 ∨ s.cfg.rbMaxCap < c.toNat) → FaultsWith (.portOpen p c) s .badCapacity) ∧
      (p.toNat < s.cfg.nports → (s.chan p.toNat).isOpen = false →
        1 ≤ c.toNat → c.toNat ≤ s.cfg.rbMaxCap →
          ∃ (slot : List Byte) (d : Nat), slot.length = c.toNat ∧
            exec (.portOpen p c) s = .next (State.answered { s with
              chans := s.chans.set p.toNat { s.chan p.toNat with
                isOpen := true
                ring := { cap := c.toNat, slot := slot, head := 0, count := 0 } }
              draws := d } 0))

/-- R296, R297. That `CAP`, `HEAD` and the slots of the closed channel stay as they were is the
model's choice (log entry 10; 93_implementation_defined.md U10 gives them any value). -/
def Obligations.PortCloseDiscardsTheBuffer : Prop :=
  DecodesAs 0x03 (fun _ a b => a == 0 && b == 0) (fun p _ _ => .portClose p) ∧
    ∀ (p : Byte) (s : State),
      PortChecks (.portClose p) p s ∧
      (s.PortOk p → exec (.portClose p) s = .next (State.answered { s with
        chans := s.chans.set p.toNat { s.chan p.toNat with
          isOpen := false
          ring := { (s.chan p.toNat).ring with count := 0 } } } 0))

/-- R298: the latch is returned and not cleared. -/
def Obligations.RdFaultReturnsTheLatch : Prop :=
  DecodesAs 0x04 (fun p a b => p == 0 && a == 0 && b == 0) (fun _ _ _ => .rdFault) ∧
    ∀ s : State, s.faultstat &&& ~~~ 0x07FE#16 = 0 →
      exec .rdFault s = .next (s.answered s.faultstat)

/-! ## Ring-buffer commands -/

/-- R140. -/
def Obligations.RbPushEnqueuesOrDrops : Prop :=
  DecodesAs 0x10 (fun _ a b => decide (a.toNat < 256) && b == 0)
      (fun p a _ => .rbPush p (a.setWidth 8)) ∧
    ∀ (p byte : Byte) (s : State),
      PortChecks (.rbPush p byte) p s ∧
      (s.PortOk p → (s.chan p.toNat).ring.count = (s.chan p.toNat).ring.cap →
        exec (.rbPush p byte) s = .next (s.answered 0)) ∧
      (s.PortOk p → (s.chan p.toNat).ring.count ≠ (s.chan p.toNat).ring.cap →
        exec (.rbPush p byte) s = .next (State.answered { s with
          chans := s.chans.set p.toNat { s.chan p.toNat with
            ring := { (s.chan p.toNat).ring with
              slot := (s.chan p.toNat).ring.slot.set
                (((s.chan p.toNat).ring.head + (s.chan p.toNat).ring.count) %
                  (s.chan p.toNat).ring.cap) byte
              count := (s.chan p.toNat).ring.count + 1 } } } 1))

/-- R141. -/
def Obligations.RbPopTakesTheOldestByte : Prop :=
  DecodesAs 0x11 (fun _ a b => a == 0 && b == 0) (fun p _ _ => .rbPop p) ∧
    ∀ (p : Byte) (s : State),
      PortChecks (.rbPop p) p s ∧
      (s.PortOk p → (s.chan p.toNat).ring.count = 0 → FaultsWith (.rbPop p) s .rbEmpty) ∧
      (s.Inv → s.PortOk p → (s.chan p.toNat).ring.count ≠ 0 →
        ∃ b : Byte, (s.chan p.toNat).ring.slot[(s.chan p.toNat).ring.head]? = some b ∧
          exec (.rbPop p) s = .next (State.answered { s with
            chans := s.chans.set p.toNat { s.chan p.toNat with
              ring := { (s.chan p.toNat).ring with
                head := ((s.chan p.toNat).ring.head + 1) % (s.chan p.toNat).ring.cap
                count := (s.chan p.toNat).ring.count - 1 } } } (b.setWidth 16)))

/-- R142. -/
def Obligations.RbPeekReadsAPosition : Prop :=
  DecodesAs 0x12 (fun _ _ b => b == 0) (fun p a _ => .rbPeek p a) ∧
    ∀ (p : Byte) (i : Half) (s : State),
      PortChecks (.rbPeek p i) p s ∧
      (s.PortOk p → (s.chan p.toNat).ring.count ≤ i.toNat →
        FaultsWith (.rbPeek p i) s .peekRange) ∧
      (s.Inv → s.PortOk p → i.toNat < (s.chan p.toNat).ring.count →
        ∃ b : Byte, (s.chan p.toNat).ring.slot[((s.chan p.toNat).ring.head + i.toNat) %
            (s.chan p.toNat).ring.cap]? = some b ∧
          exec (.rbPeek p i) s = .next (s.answered (b.setWidth 16)))

/-- R143, R144, R145. -/
def Obligations.RingQueriesReadTheCount : Prop :=
  DecodesAs 0x13 (fun _ a b => a == 0 && b == 0) (fun p _ _ => .rbSize p) ∧
    DecodesAs 0x14 (fun _ a b => a == 0 && b == 0) (fun p _ _ => .rbEmpty p) ∧
    DecodesAs 0x15 (fun _ a b => a == 0 && b == 0) (fun p _ _ => .rbFull p) ∧
    ∀ (p : Byte) (s : State),
      PortChecks (.rbSize p) p s ∧ PortChecks (.rbEmpty p) p s ∧ PortChecks (.rbFull p) p s ∧
      (s.Inv → s.PortOk p → ∃ v : Half, v.toNat = (s.chan p.toNat).ring.count ∧
        exec (.rbSize p) s = .next (s.answered v)) ∧
      (s.PortOk p → exec (.rbEmpty p) s =
        .next (s.answered (if (s.chan p.toNat).ring.count = 0 then 1 else 0))) ∧
      (s.PortOk p → exec (.rbFull p) s =
        .next (s.answered
          (if (s.chan p.toNat).ring.count = (s.chan p.toNat).ring.cap then 1 else 0)))

/-- R38, R140 to R142: on the logical content the commands are an append, a removal of the head and a
look at a position. -/
def Obligations.RingCommandsActOnTheQueue : Prop :=
  ∀ (p : Byte) (s : State), s.Inv → s.PortOk p →
    (∀ b : Byte, (s.chan p.toNat).ring.q.length < (s.chan p.toNat).ring.cap →
      ∃ t, exec (.rbPush p b) s = .next t ∧ t.response = some { status := .ok, result := 1 } ∧
        (t.chan p.toNat).ring.q = (s.chan p.toNat).ring.q ++ [b] ∧
        (t.chan p.toNat).ring.cap = (s.chan p.toNat).ring.cap) ∧
    (∀ (b : Byte) (rest : List Byte), (s.chan p.toNat).ring.q = b :: rest →
      ∃ t, exec (.rbPop p) s = .next t ∧
        t.response = some { status := .ok, result := b.setWidth 16 } ∧
        (t.chan p.toNat).ring.q = rest ∧ (t.chan p.toNat).ring.cap = (s.chan p.toNat).ring.cap) ∧
    ∀ (i : Half) (b : Byte), (s.chan p.toNat).ring.q[i.toNat]? = some b →
      exec (.rbPeek p i) s = .next (s.answered (b.setWidth 16))

/-- R146, all five laws: for accepted pushes and pops from empty, the bytes popped and then those held
are the bytes pushed, in order, and a peek shows them (wraparound included); the buffer is full
exactly after `CAP` accepted pushes; a push on a full buffer changes nothing. -/
def Obligations.RingBufferLaws : Prop :=
  ∀ (p : Byte) (s : State), s.Inv → s.PortOk p →
    ((s.chan p.toNat).ring.count = (s.chan p.toNat).ring.cap →
      ∀ b : Byte, exec (.rbPush p b) s = .next (s.answered 0)) ∧
    ((s.chan p.toNat).ring.q = [] →
    (∀ (ops : List (Option Byte)) (rs : List Response) (t : State),
      runAll (ops.map (ringOp p)) s = some (rs, t) →
        (∀ x ∈ ops.zip rs, accepted x.1 x.2 = true) →
          poppedBytes ops rs ++ (t.chan p.toNat).ring.q = pushedBytes ops ∧
          ∀ (i : Half) (b : Byte), i.toNat < (t.chan p.toNat).ring.q.length →
            (pushedBytes ops)[(poppedBytes ops rs).length + i.toNat]? = some b →
              exec (.rbPeek p i) t = .next (t.answered (b.setWidth 16))) ∧
    ∀ l : List Byte, l.length ≤ (s.chan p.toNat).ring.cap →
      ∃ t, runAll (l.map (.rbPush p)) s =
          some (l.map fun _ => { status := .ok, result := 1 }, t) ∧
        exec (.rbFull p) t =
          .next (t.answered (if l.length = (s.chan p.toNat).ring.cap then 1 else 0)) ∧
        ∀ (i : Half) (b : Byte), l[i.toNat]? = some b →
          exec (.rbPeek p i) t = .next (t.answered (b.setWidth 16)))

/-- R38, R46, R49: no step observes `HEAD`, a slot outside the logical content, the buffer of a closed
channel, or `LOCAL_ADDR` before `INIT`: states that differ only there stay so and answer alike. -/
def Obligations.HeadAndDeadSlotsAreUnobservable : Prop :=
  ∀ s u : State, s.Inv → u.Inv → s.Agree u →
    ∃ s' u', step s = .next s' ∧ step u = .next u' ∧ s'.Agree u'

/-- R147: a byte the host pushes is scanned as if the transport had delivered it before the bytes
still in the source. -/
def Obligations.PushedByteIsScannedBeforeTheSource : Prop :=
  ∀ (p b : Byte) (s : State), s.Inv → s.PortOk p → s.addrValid = true →
    (s.chan p.toNat).ring.count < (s.chan p.toNat).ring.cap →
      ∃ t, exec (.rbPush p b) s = .next t ∧
        exec (.scan p) t = exec (.scan p) { s with
          chans := s.chans.set p.toNat { s.chan p.toNat with src := b :: (s.chan p.toNat).src } }

/-! ## Conversion -/

/-- R170 to R175, as arithmetic on the unsigned reading; no state changes but the response. -/
def Obligations.ConversionsSplitAndJoin : Prop :=
  DecodesAs 0x20 (fun p _ b => p == 0 && b == 0) (fun _ a _ => .msbS a) ∧
    DecodesAs 0x21 (fun p _ b => p == 0 && b == 0) (fun _ a _ => .lsbS a) ∧
    DecodesAs 0x22 (fun p _ b => p == 0 && b == 0) (fun _ a _ => .msbU a) ∧
    DecodesAs 0x23 (fun p _ b => p == 0 && b == 0) (fun _ a _ => .lsbU a) ∧
    DecodesAs 0x24 (fun p a b => p == 0 && decide (a.toNat < 256) && decide (b.toNat < 256))
      (fun _ a b => .joinS (a.setWidth 8) (b.setWidth 8)) ∧
    DecodesAs 0x25 (fun p a b => p == 0 && decide (a.toNat < 256) && decide (b.toNat < 256))
      (fun _ a b => .joinU (a.setWidth 8) (b.setWidth 8)) ∧
    ∀ (v : Half) (m l : Byte) (s : State),
      exec (.msbS v) s = .next (s.answered (BitVec.ofNat 16 (v.toNat / 256))) ∧
      exec (.lsbS v) s = .next (s.answered (BitVec.ofNat 16 (v.toNat % 256))) ∧
      exec (.msbU v) s = .next (s.answered (BitVec.ofNat 16 (v.toNat / 256))) ∧
      exec (.lsbU v) s = .next (s.answered (BitVec.ofNat 16 (v.toNat % 256))) ∧
      exec (.joinS m l) s = .next (s.answered (BitVec.ofNat 16 (m.toNat * 256 + l.toNat))) ∧
      exec (.joinU m l) s = .next (s.answered (BitVec.ofNat 16 (m.toNat * 256 + l.toNat)))

/-- R176, R177: the signed and unsigned forms agree, joining what was split gives the value back, and
splitting what was joined gives the bytes back. -/
def Obligations.SplitAndJoinRoundTrip : Prop :=
  ∀ (x : Half) (m l : Byte) (s : State),
    exec (.msbS x) s = exec (.msbU x) s ∧ exec (.lsbS x) s = exec (.lsbU x) s ∧
      exec (.joinS m l) s = exec (.joinU m l) s ∧
      (∃ h lo : Half, exec (.msbS x) s = .next (s.answered h) ∧
        exec (.lsbS x) s = .next (s.answered lo) ∧
        exec (.joinS (h.setWidth 8) (lo.setWidth 8)) s = .next (s.answered x)) ∧
      (∃ h lo : Half, exec (.msbU x) s = .next (s.answered h) ∧
        exec (.lsbU x) s = .next (s.answered lo) ∧
        exec (.joinU (h.setWidth 8) (lo.setWidth 8)) s = .next (s.answered x)) ∧
      ∃ v : Half, exec (.joinU m l) s = .next (s.answered v) ∧
        exec (.msbU v) s = .next (s.answered (m.setWidth 16)) ∧
        exec (.lsbU v) s = .next (s.answered (l.setWidth 16))

/-! ## CRC-8 -/

/-- R190, R191: eight iterations on the unsigned readings, and the fold from 0. -/
def Obligations.CrcFollowsTheBitProcedure : Prop :=
  let iteration (x : Nat × Nat) : Nat × Nat :=
    (if (x.1 ^^^ x.2) % 2 = 1 then (x.1 / 2) ^^^ 0x8C else x.1 / 2, x.2 / 2)
  (∀ value data : Byte,
      (crcStep value data).toNat = (iteration^[8] (value.toNat, data.toNat)).1) ∧
    crc8 [] = 0 ∧ ∀ (l : List Byte) (b : Byte), crc8 (l ++ [b]) = crcStep (crc8 l) b

/-- R192, its four items, with the table of 42_crc8.md section 3. -/
def Obligations.CrcConsequences : Prop :=
  (∀ value data : Byte, crcStep value data = crcTable (value ^^^ data)) ∧
    (∀ x : Byte, crc8 [x] = crcTable x) ∧
    (∀ n : Nat, crc8 (List.replicate n 0) = 0) ∧
    (∀ l : List Byte, crc8 (l ++ [crc8 l]) = 0) ∧
    (∀ l₁ l₂ : List Byte, l₁.length = l₂.length →
      crc8 (List.zipWith (· ^^^ ·) l₁ l₂) = crc8 l₁ ^^^ crc8 l₂) ∧
    ∀ (l : List Byte) (i n : Nat) (b : Byte), n < 8 → l[i]? = some b →
      crc8 (l.set i (b ^^^ (1 <<< n))) ≠ crc8 l

/-- R194, R195, R196. -/
def Obligations.CrcCommandsDriveTheAccumulator : Prop :=
  DecodesAs 0x30 (fun p a b => p == 0 && a == 0 && b == 0) (fun _ _ _ => .crcInit) ∧
    DecodesAs 0x31 (fun p a b => p == 0 && decide (a.toNat < 256) && b == 0)
      (fun _ a _ => .crcByte (a.setWidth 8)) ∧
    DecodesAs 0x32 (fun p a b => p == 0 && a == 0 && b == 0) (fun _ _ _ => .crcRead) ∧
    ∀ (byte : Byte) (s : State),
      exec .crcInit s = .next (State.answered { s with crcAcc := 0 } 0) ∧
      exec (.crcByte byte) s =
        .next (State.answered { s with crcAcc := crcStep s.crcAcc byte }
          ((crcStep s.crcAcc byte).setWidth 16)) ∧
      exec .crcRead s = .next (s.answered (s.crcAcc.setWidth 16))

/-- R108: after the expansion of `CRC_OF`, the accumulator holds the CRC of the bytes. -/
def Obligations.CrcOfAccumulatesTheCrc : Prop :=
  ∀ (l : List Byte) (s : State),
    ∃ rs t, runAll (crcOf l) s = some (rs, t) ∧ rs.length = l.length + 1 ∧
      t = { s with crcAcc := crc8 l, response := t.response }

/-- R34, R193: `SCAN` and `SEND` neither read nor write the host's accumulator. -/
def Obligations.ScanAndSendIgnoreTheAccumulator : Prop :=
  ∀ (p dest v : Byte) (s t : State),
    (exec (.scan p) s = .next t → t.crcAcc = s.crcAcc ∧
      exec (.scan p) { s with crcAcc := v } = .next { t with crcAcc := v }) ∧
    (exec (.send p dest) s = .next t → t.crcAcc = s.crcAcc ∧
      exec (.send p dest) { s with crcAcc := v } = .next { t with crcAcc := v })

/-! ## Scanner -/

/-- R210 to R221 and R224: a `SCAN` with its checks passed completes, and what it leaves in the
buffer, the source, the array and the result is what the state machine of R224 leaves when it is
started in Draining on the buffer's logical content and run until it returns. -/
def Obligations.ScanIsTheReassemblyMachine : Prop :=
  ∀ (p : Byte) (s : State), s.Inv → s.PortOk p → s.addrValid = true →
    ∃ (t : State) (n : Nat) (x : ScanFsm), exec (.scan p) s = .next t ∧
      x = fsmRun s.cfg s.localAddr p.toNat (s.chan p.toNat).ring.cap n
        { phase := .draining, q := (s.chan p.toNat).ring.q, src := (s.chan p.toNat).src,
          array := s.array, frames := 0 } ∧
      x.phase = .returned ∧ (t.chan p.toNat).ring.q = x.q ∧ (t.chan p.toNat).src = x.src ∧
      t.array = x.array ∧ t.response = some { status := .ok, result := BitVec.ofNat 16 x.frames } ∧
      ∃ r, t = { s with
        chans := s.chans.set p.toNat { s.chan p.toNat with ring := r, src := x.src }
        array := x.array
        response := t.response }

/-- R211: the drain takes `min(len(SRC), CAP - COUNT)` bytes, once, and leaves the rest in order. -/
def Obligations.ScanDrainsTheSourceOnce : Prop :=
  ∀ (p : Byte) (s : State), s.Inv → s.PortOk p → s.addrValid = true →
    ∃ t, exec (.scan p) s = .next t ∧
      (t.chan p.toNat).src = (s.chan p.toNat).src.drop
        (min (s.chan p.toNat).src.length
          ((s.chan p.toNat).ring.cap - (s.chan p.toNat).ring.count)) ∧
      exec (.scan p) { s with
          chans := s.chans.set p.toNat { s.chan p.toNat with
            src := (s.chan p.toNat).src.take
              ((s.chan p.toNat).ring.cap - (s.chan p.toNat).ring.count) } } =
        .next { t with chans := t.chans.set p.toNat { t.chan p.toNat with src := [] } }

/-- R223: more passes than `COUNT + 1` change nothing, and a `SCAN` leaves the buffer empty, or with 1
to 4 bytes starting with 0x06, or with a valid header and an incomplete body. -/
def Obligations.ScanEndsInOneOfThreeShapes : Prop :=
  (∀ (cfg : Config) (addr : Byte) (p k : Nat) (r : RingBuf) (arr : List Entry),
      scanLoop cfg addr p (r.count + 1 + k) { ring := r, array := arr, frames := 0 } =
        scanBuffer cfg addr p r arr) ∧
    ∀ (p : Byte) (s : State), s.Inv → s.PortOk p → s.addrValid = true →
      ∃ t q, exec (.scan p) s = .next t ∧ (t.chan p.toNat).ring.q = q ∧
        (q = [] ∨ (1 ≤ q.length ∧ q.length ≤ 4 ∧ q[0]? = some 0x06) ∨
          (ValidHeader s.cfg s.localAddr q ∧
            ∃ len : Byte, q[4]? = some len ∧ q.length < len.toNat + 6))

/-- R226, R271, R274, R276, R219 to R221: the entries one block stages and sends, delivered unchanged
after bytes none of which is 0x06, are committed in order by a receiver whose address is the
destination and whose sizes allow the frame: one frame counted, buffer and source empty. -/
def Obligations.SentFrameIsCommittedByTheReceiver : Prop :=
  ∀ (a a' b : State) (p p' dest : Byte) (es : List (Half × Half)) (garbage f : List Byte),
    a.Inv → a.PortOk p → a.addrValid = true → a.stage = entriesBytes es →
    exec (.send p dest) a = .next a' → (a'.chan p.toNat).snk = (a.chan p.toNat).snk ++ f →
    b.Inv → b.PortOk p' → b.addrValid = true → b.localAddr = dest →
    (b.chan p'.toNat).ring.q = [] → (b.chan p'.toNat).src = garbage ++ f →
    (∀ x ∈ garbage, x ≠ 0x06) → f.length ≤ b.cfg.mxPacketSize →
    garbage.length + f.length ≤ (b.chan p'.toNat).ring.cap →
      ∃ b', exec (.scan p') b = .next b' ∧
        b'.response = some { status := .ok, result := 1 } ∧
        (b'.chan p'.toNat).ring.q = [] ∧ (b'.chan p'.toNat).src = [] ∧
        b'.array = es.foldl (applyEntry b.cfg.arraySize p'.toNat) b.array

/-- R355: a full buffer with a valid header of a frame larger than the buffer stalls the channel:
`SCAN` answers 0 and changes nothing. -/
def Obligations.OversizedHeaderStallsTheChannel : Prop :=
  ∀ (p len : Byte) (s : State), s.Inv → s.PortOk p → s.addrValid = true →
    ValidHeader s.cfg s.localAddr (s.chan p.toNat).ring.q →
    (s.chan p.toNat).ring.q[4]? = some len →
    (s.chan p.toNat).ring.count = (s.chan p.toNat).ring.cap →
    (s.chan p.toNat).ring.cap < len.toNat + 6 →
      exec (.scan p) s = .next (s.answered 0)

/-- R214, R218: an invalid header, or a frame whose CRC byte does not agree, costs exactly its first
byte: the `SCAN` goes on as it would with that byte gone. -/
def Obligations.RejectedHeaderCostsOneByte : Prop :=
  ∀ (p : Byte) (s : State) (q : List Byte), s.Inv → s.PortOk p → s.addrValid = true →
    (s.chan p.toNat).src = [] → (s.chan p.toNat).ring.q = q →
    q[0]? = some 0x06 → 5 ≤ q.length →
    (¬ ValidHeader s.cfg s.localAddr q ∨
      ∃ len c : Byte, q[4]? = some len ∧ q[5 + len.toNat]? = some c ∧
        crc8 ((q.drop 5).take len.toNat) ≠ c) →
      exec (.scan p) s = exec (.scan p) { s with
        chans := s.chans.set p.toNat { s.chan p.toNat with
          ring := RingBuf.dropFront 1 (s.chan p.toNat).ring } }

/-! ## Shared array -/

/-- R250. -/
def Obligations.RdArrayReadsAndAcknowledges : Prop :=
  DecodesAs 0x50 (fun p _ b => p == 0 && b == 0) (fun _ a _ => .rdArray a) ∧
    ∀ (i : Half) (s : State),
      (s.cfg.arraySize ≤ i.toNat → FaultsWith (.rdArray i) s .indexRange) ∧
      (i.toNat < s.cfg.arraySize → exec (.rdArray i) s = .next (State.answered { s with
        array := s.array.set i.toNat { s.entry i.toNat with dirty := false } }
        (s.entry i.toNat).value))

/-- R252. -/
def Obligations.RdFlagPeeksTheFlag : Prop :=
  DecodesAs 0x51 (fun p _ b => p == 0 && b == 0) (fun _ a _ => .rdFlag a) ∧
    ∀ (i : Half) (s : State),
      (s.cfg.arraySize ≤ i.toNat → FaultsWith (.rdFlag i) s .indexRange) ∧
      (i.toNat < s.cfg.arraySize → exec (.rdFlag i) s =
        .next (s.answered (if (s.entry i.toNat).dirty then 1 else 0)))

/-- R254. -/
def Obligations.LimitSetsTheOwner : Prop :=
  DecodesAs 0x52 (fun _ _ b => b == 0) (fun p a _ => .limit a p) ∧
    ∀ (i : Half) (p : Byte) (s : State),
      PortChecks (.limit i p) p s ∧
      (s.PortOk p → s.cfg.arraySize ≤ i.toNat → exec (.limit i p) s = .next (s.answered 0)) ∧
      (s.PortOk p → i.toNat < s.cfg.arraySize → exec (.limit i p) s = .next (State.answered { s with
        array := s.array.set i.toNat { s.entry i.toNat with owner := some p.toNat } } 0))

/-! ## Framer -/

/-- R270, R271, R272. -/
def Obligations.QueueStagesAnEntryOrRefuses : Prop :=
  DecodesAs 0x60 (fun p _ _ => p == 0) (fun _ a b => .queue a b) ∧
    ∀ (i v : Half) (s : State),
      (s.stage.length + 4 > min s.cfg.mxPacketSize 255 → exec (.queue i v) s =
        .next { s with response := some { status := .stageFull, result := 0 } }) ∧
      (s.stage.length + 4 ≤ min s.cfg.mxPacketSize 255 →
        exec (.queue i v) s = .next (State.answered { s with
          stage := s.stage ++ [BitVec.ofNat 8 (i.toNat / 256), BitVec.ofNat 8 (i.toNat % 256),
            BitVec.ofNat 8 (v.toNat / 256), BitVec.ofNat 8 (v.toNat % 256)] } 0))

/-- R273. -/
def Obligations.ClearPktEmptiesTheStage : Prop :=
  DecodesAs 0x61 (fun p a b => p == 0 && a == 0 && b == 0) (fun _ _ _ => .clearPkt) ∧
    ∀ s : State, exec .clearPkt s = .next (State.answered { s with stage := [] } 0)

/-- R274 to R277: the frame of the staged bytes is emitted whole, whatever `MX_PACKET_SIZE` is, its
length byte exact and a multiple of 4, and the staging buffer is emptied. -/
def Obligations.SendEmitsTheFrame : Prop :=
  DecodesAs 0x62 (fun _ a b => decide (a.toNat < 256) && b == 0)
      (fun p a _ => .send p (a.setWidth 8)) ∧
    ∀ (p dest : Byte) (s : State),
      PortChecks (.send p dest) p s ∧
      (s.PortOk p → s.addrValid = false → FaultsWith (.send p dest) s .notInit) ∧
      (s.PortOk p → s.addrValid = true → s.Inv →
        ∃ len : Byte, len.toNat = s.stage.length ∧ len.toNat % 4 = 0 ∧
          exec (.send p dest) s = .next (State.answered { s with
            chans := s.chans.set p.toNat { s.chan p.toNat with
              snk := (s.chan p.toNat).snk ++
                ([0x06, 0x85, s.localAddr, dest, len] ++ s.stage ++ [crc8 s.stage]) }
            stage := [] } 0))

/-! ## Assembler -/

/-- R107, R108: for every mnemonic, the operand order, the field each operand goes to and the ranges;
a negative value is its 16-bit two's complement, an operand out of range is an assembly error, and
`CRC_OF` is `CRC_INIT` and a `CRC_BYTE` for each byte. -/
def Obligations.AssemblerRangesAndOrder : Prop :=
  let p (n : Int) : Byte := BitVec.ofInt 8 n
  let f (n : Int) : Half := BitVec.ofInt 16 n
  (asmWords "NOP" [] = some [cmdWord 0x00 0 0 0] ∧
    asmWords "RD_FAULT" [] = some [cmdWord 0x04 0 0 0] ∧
    asmWords "CRC_INIT" [] = some [cmdWord 0x30 0 0 0] ∧
    asmWords "CRC_READ" [] = some [cmdWord 0x32 0 0 0] ∧
    asmWords "CLEAR_PKT" [] = some [cmdWord 0x61 0 0 0]) ∧
  (AssemblesOne "INIT" ByteRange (fun addr => cmdWord 0x01 0 (f addr) 0) ∧
    AssemblesOne "CRC_BYTE" ByteRange (fun byte => cmdWord 0x31 0 (f byte) 0)) ∧
  (AssemblesOne "PORT_CLOSE" ByteRange (fun ch => cmdWord 0x03 (p ch) 0 0) ∧
    AssemblesOne "RB_POP" ByteRange (fun ch => cmdWord 0x11 (p ch) 0 0) ∧
    AssemblesOne "RB_SIZE" ByteRange (fun ch => cmdWord 0x13 (p ch) 0 0) ∧
    AssemblesOne "RB_EMPTY" ByteRange (fun ch => cmdWord 0x14 (p ch) 0 0) ∧
    AssemblesOne "RB_FULL" ByteRange (fun ch => cmdWord 0x15 (p ch) 0 0) ∧
    AssemblesOne "SCAN" ByteRange (fun ch => cmdWord 0x40 (p ch) 0 0)) ∧
  (AssemblesOne "MSB_S" SignedRange (fun value => cmdWord 0x20 0 (f value) 0) ∧
    AssemblesOne "LSB_S" SignedRange (fun value => cmdWord 0x21 0 (f value) 0) ∧
    AssemblesOne "MSB_U" HalfRange (fun value => cmdWord 0x22 0 (f value) 0) ∧
    AssemblesOne "LSB_U" HalfRange (fun value => cmdWord 0x23 0 (f value) 0) ∧
    AssemblesOne "RD_ARRAY" HalfRange (fun index => cmdWord 0x50 0 (f index) 0) ∧
    AssemblesOne "RD_FLAG" HalfRange (fun index => cmdWord 0x51 0 (f index) 0)) ∧
  (AssemblesTwo "PORT_OPEN" ByteRange HalfRange (fun ch cap => cmdWord 0x02 (p ch) (f cap) 0) ∧
    AssemblesTwo "RB_PUSH" ByteRange ByteRange (fun ch byte => cmdWord 0x10 (p ch) (f byte) 0) ∧
    AssemblesTwo "RB_PEEK" ByteRange HalfRange (fun ch index => cmdWord 0x12 (p ch) (f index) 0) ∧
    AssemblesTwo "JOIN_S" ByteRange ByteRange (fun m l => cmdWord 0x24 0 (f m) (f l)) ∧
    AssemblesTwo "JOIN_U" ByteRange ByteRange (fun m l => cmdWord 0x25 0 (f m) (f l)) ∧
    AssemblesTwo "LIMIT" HalfRange ByteRange (fun index ch => cmdWord 0x52 (p ch) (f index) 0) ∧
    AssemblesTwo "QUEUE" HalfRange SignedRange (fun index v => cmdWord 0x60 0 (f index) (f v)) ∧
    AssemblesTwo "SEND" ByteRange ByteRange (fun ch dest => cmdWord 0x62 (p ch) (f dest) 0)) ∧
  (∀ l : List Int,
    ((∀ n ∈ l, ByteRange n) → asmWords "CRC_OF" l =
      some (cmdWord 0x30 0 0 0 :: l.map fun n => cmdWord 0x31 0 (f n) 0)) ∧
    ((∃ n ∈ l, ¬ ByteRange n) → asmWords "CRC_OF" l = none)) ∧
  (∀ n : Int, -32768 ≤ n ∧ n ≤ 32767 → (f n).toInt = n) ∧
  ∀ n : Int, HalfRange n → ((f n).toNat : Int) = n
end

