-- ==== Sys2Proof/Laws/Assembler.lean ====
section
/-!
SUPPORT. What a mnemonic with its operands assembles to (30_encoding.md R107, R108), said once for
each number of operands.
-/

namespace Sys2Proof.Machine

/-- A byte operand in range stands in its 16-bit field as the number it is. -/
theorem byteField_ofInt {n : Int} (h : ByteRange n) :
    byteField (BitVec.ofInt 8 n) = BitVec.ofInt 16 n := by
  obtain ⟨h0, h1⟩ := h
  obtain ⟨k, rfl⟩ := Int.eq_ofNat_of_zero_le h0
  apply BitVec.eq_of_toNat_eq
  simp [byteField]
  omega

theorem assembleOps_crcOf (l : List Int) :
    assembleOps "CRC_OF" l = (l.mapM asmByte).map crcOf := if_pos rfl

/-- The operands of `CRC_OF`, all in range. -/
theorem mapM_asmByte {l : List Int} (h : ∀ n ∈ l, ByteRange n) :
    l.mapM asmByte = some (l.map (BitVec.ofInt 8)) := by
  induction l with
  | nil => rfl
  | cons a l ih =>
    have ha : asmByte a = some (BitVec.ofInt 8 a) := if_pos (h a (by simp))
    simp [List.mapM_cons, ha, ih fun n hn => h n (by simp [hn])]

/-- The operands of `CRC_OF`, one out of range. -/
theorem mapM_asmByte_none {l : List Int} {n : Int} (hn : n ∈ l) (h : ¬ ByteRange n) :
    l.mapM asmByte = none := by
  induction l with
  | nil => cases hn
  | cons a l ih =>
    rcases List.mem_cons.mp hn with rfl | hn
    · have ha : asmByte n = none := if_neg h
      simp [List.mapM_cons, ha]
    · simp [List.mapM_cons, ih hn]

/-- A mnemonic whose one operand is read by `read`. -/
theorem assemblesOne_of {name : String} {ok : Int → Prop} {w : Int → CmdWord} {α : Type}
    {read : Int → Option α} {mk : α → Instr}
    (hr : ∀ n, assembleOps name [n] = asmOne (read n) mk)
    (hok : ∀ n, ok n → ∃ a, read n = some a ∧ encode (mk a) = w n)
    (hno : ∀ n, ¬ ok n → read n = none) : AssemblesOne name ok w := by
  refine fun n => ⟨fun h => ?_, fun h => ?_⟩
  · obtain ⟨a, ha, hw⟩ := hok n h
    simp [asmWords, hr, asmOne, ha, hw]
  · simp [asmWords, hr, asmOne, hno n h]

/-- A mnemonic whose two operands are read by `read₁` and `read₂`. -/
theorem assemblesTwo_of {name : String} {ok₁ ok₂ : Int → Prop} {w : Int → Int → CmdWord}
    {α β : Type} {read₁ : Int → Option α} {read₂ : Int → Option β} {mk : α → β → Instr}
    (hr : ∀ m n, assembleOps name [m, n] = asmTwo (read₁ m) (read₂ n) mk)
    (hok : ∀ m n, ok₁ m → ok₂ n →
      ∃ a b, read₁ m = some a ∧ read₂ n = some b ∧ encode (mk a b) = w m n)
    (hno₁ : ∀ m, ¬ ok₁ m → read₁ m = none) (hno₂ : ∀ n, ¬ ok₂ n → read₂ n = none) :
    AssemblesTwo name ok₁ ok₂ w := by
  refine fun m n => ⟨fun hm hn => ?_, fun h => ?_⟩
  · obtain ⟨a, b, ha, hb, hw⟩ := hok m n hm hn
    simp [asmWords, hr, asmTwo, ha, hb, hw]
  · by_cases hm : ok₁ m
    · simp [asmWords, hr, asmTwo, hno₂ n fun hn => h ⟨hm, hn⟩]
    · simp [asmWords, hr, asmTwo, hno₁ m hm]

end Sys2Proof.Machine
end

