-- ==== Sys2Proof/Laws/Decode.lean ====
section
/-!
SUPPORT. The fields of a command word: reading a field of a word built from fields, and building a word
from the fields read (30_encoding.md R101).
-/

namespace Sys2Proof

@[simp] theorem opcOf_cmdWord (opc p : Byte) (a b : Half) : opcOf (cmdWord opc p a b) = opc := by
  ext i hi
  simp [opcOf, cmdWord]
  grind

@[simp] theorem pOf_cmdWord (opc p : Byte) (a b : Half) : pOf (cmdWord opc p a b) = p := by
  ext i hi
  simp [pOf, cmdWord]
  grind

@[simp] theorem aOf_cmdWord (opc p : Byte) (a b : Half) : aOf (cmdWord opc p a b) = a := by
  ext i hi
  simp [aOf, cmdWord]
  grind

@[simp] theorem bOf_cmdWord (opc p : Byte) (a b : Half) : bOf (cmdWord opc p a b) = b := by
  ext i hi
  simp [bOf, cmdWord]
  grind

/-- A word is its four fields. -/
theorem cmdWord_fields (w : CmdWord) : cmdWord (opcOf w) (pOf w) (aOf w) (bOf w) = w := by
  ext i hi
  simp [opcOf, pOf, aOf, bOf, cmdWord]
  grind

/-- Decoding a word looks at its four fields. -/
theorem decode_cmdWord (opc p : Byte) (a b : Half) :
    decode (cmdWord opc p a b) = decodeFields opc p a b := by
  simp [decode]

@[simp] theorem lowByte_byteField (b : Byte) : lowByte (byteField b) = b := by
  ext i hi
  simp [lowByte, byteField]
  grind

@[simp] theorem highByte_byteField (b : Byte) : highByte (byteField b) = 0 := by
  ext i hi
  simp [highByte, byteField]

/-- A 16-bit field with a zero high byte is its low byte. -/
theorem byteField_lowByte {v : Half} (h : highByte v = 0) : byteField (lowByte v) = v := by
  ext i hi
  have key := congrArg (fun x : Byte => x.getLsbD (i - 8)) h
  simp [lowByte, byteField, highByte] at key ⊢
  grind

/-- The high byte is zero exactly for values below 256. -/
theorem highByte_eq_zero_iff (v : Half) : highByte v = 0#8 ↔ v.toNat < 256 := by
  rw [← BitVec.toNat_inj]
  have := v.isLt
  simp [highByte, BitVec.extractLsb'_toNat, Nat.shiftRight_eq_div_pow]
  omega

theorem lowByte_eq_setWidth (v : Half) : lowByte v = v.setWidth 8 := by
  ext i hi
  simp [lowByte]

/-- The zero test of `ifZero` gives a command exactly where it holds. -/
theorem ifZero_ok {z : Bool} {i j : Instr} : ifZero z i = .ok j ↔ z = true ∧ i = j := by
  cases z <;> simp [ifZero]

end Sys2Proof
end

