-- ==== Sys2Proof/Laws/State.lean ====
section
/-!
SUPPORT. What every named update of the state does to every field, one lemma each, and the reads of a
channel and of an entry after an update.
-/

namespace Sys2Proof.Machine

/-! ### setChan -/

@[simp] theorem State.setChan_cfg (s : State) (p : Nat) (c : Channel) :
    (s.setChan p c).cfg = s.cfg := rfl
@[simp] theorem State.setChan_addrValid (s : State) (p : Nat) (c : Channel) :
    (s.setChan p c).addrValid = s.addrValid := rfl
@[simp] theorem State.setChan_localAddr (s : State) (p : Nat) (c : Channel) :
    (s.setChan p c).localAddr = s.localAddr := rfl
@[simp] theorem State.setChan_crcAcc (s : State) (p : Nat) (c : Channel) :
    (s.setChan p c).crcAcc = s.crcAcc := rfl
@[simp] theorem State.setChan_faultstat (s : State) (p : Nat) (c : Channel) :
    (s.setChan p c).faultstat = s.faultstat := rfl
@[simp] theorem State.setChan_chans (s : State) (p : Nat) (c : Channel) :
    (s.setChan p c).chans = s.chans.set p c := rfl
@[simp] theorem State.setChan_array (s : State) (p : Nat) (c : Channel) :
    (s.setChan p c).array = s.array := rfl
@[simp] theorem State.setChan_stage (s : State) (p : Nat) (c : Channel) :
    (s.setChan p c).stage = s.stage := rfl
@[simp] theorem State.setChan_pending (s : State) (p : Nat) (c : Channel) :
    (s.setChan p c).pending = s.pending := rfl
@[simp] theorem State.setChan_response (s : State) (p : Nat) (c : Channel) :
    (s.setChan p c).response = s.response := rfl
@[simp] theorem State.setChan_draws (s : State) (p : Nat) (c : Channel) :
    (s.setChan p c).draws = s.draws := rfl

/-! ### setRing -/

@[simp] theorem State.setRing_cfg (s : State) (p : Nat) (r : RingBuf) :
    (s.setRing p r).cfg = s.cfg := rfl
@[simp] theorem State.setRing_addrValid (s : State) (p : Nat) (r : RingBuf) :
    (s.setRing p r).addrValid = s.addrValid := rfl
@[simp] theorem State.setRing_localAddr (s : State) (p : Nat) (r : RingBuf) :
    (s.setRing p r).localAddr = s.localAddr := rfl
@[simp] theorem State.setRing_crcAcc (s : State) (p : Nat) (r : RingBuf) :
    (s.setRing p r).crcAcc = s.crcAcc := rfl
@[simp] theorem State.setRing_faultstat (s : State) (p : Nat) (r : RingBuf) :
    (s.setRing p r).faultstat = s.faultstat := rfl
@[simp] theorem State.setRing_chans (s : State) (p : Nat) (r : RingBuf) :
    (s.setRing p r).chans = s.chans.set p { s.chan p with ring := r } := rfl
@[simp] theorem State.setRing_array (s : State) (p : Nat) (r : RingBuf) :
    (s.setRing p r).array = s.array := rfl
@[simp] theorem State.setRing_stage (s : State) (p : Nat) (r : RingBuf) :
    (s.setRing p r).stage = s.stage := rfl
@[simp] theorem State.setRing_pending (s : State) (p : Nat) (r : RingBuf) :
    (s.setRing p r).pending = s.pending := rfl
@[simp] theorem State.setRing_response (s : State) (p : Nat) (r : RingBuf) :
    (s.setRing p r).response = s.response := rfl
@[simp] theorem State.setRing_draws (s : State) (p : Nat) (r : RingBuf) :
    (s.setRing p r).draws = s.draws := rfl

/-! ### setEntry -/

@[simp] theorem State.setEntry_cfg (s : State) (i : Nat) (e : Entry) :
    (s.setEntry i e).cfg = s.cfg := rfl
@[simp] theorem State.setEntry_addrValid (s : State) (i : Nat) (e : Entry) :
    (s.setEntry i e).addrValid = s.addrValid := rfl
@[simp] theorem State.setEntry_localAddr (s : State) (i : Nat) (e : Entry) :
    (s.setEntry i e).localAddr = s.localAddr := rfl
@[simp] theorem State.setEntry_crcAcc (s : State) (i : Nat) (e : Entry) :
    (s.setEntry i e).crcAcc = s.crcAcc := rfl
@[simp] theorem State.setEntry_faultstat (s : State) (i : Nat) (e : Entry) :
    (s.setEntry i e).faultstat = s.faultstat := rfl
@[simp] theorem State.setEntry_chans (s : State) (i : Nat) (e : Entry) :
    (s.setEntry i e).chans = s.chans := rfl
@[simp] theorem State.setEntry_array (s : State) (i : Nat) (e : Entry) :
    (s.setEntry i e).array = s.array.set i e := rfl
@[simp] theorem State.setEntry_stage (s : State) (i : Nat) (e : Entry) :
    (s.setEntry i e).stage = s.stage := rfl
@[simp] theorem State.setEntry_pending (s : State) (i : Nat) (e : Entry) :
    (s.setEntry i e).pending = s.pending := rfl
@[simp] theorem State.setEntry_response (s : State) (i : Nat) (e : Entry) :
    (s.setEntry i e).response = s.response := rfl
@[simp] theorem State.setEntry_draws (s : State) (i : Nat) (e : Entry) :
    (s.setEntry i e).draws = s.draws := rfl

/-! ### setArray -/

@[simp] theorem State.setArray_cfg (s : State) (arr : List Entry) :
    (s.setArray arr).cfg = s.cfg := rfl
@[simp] theorem State.setArray_addrValid (s : State) (arr : List Entry) :
    (s.setArray arr).addrValid = s.addrValid := rfl
@[simp] theorem State.setArray_localAddr (s : State) (arr : List Entry) :
    (s.setArray arr).localAddr = s.localAddr := rfl
@[simp] theorem State.setArray_crcAcc (s : State) (arr : List Entry) :
    (s.setArray arr).crcAcc = s.crcAcc := rfl
@[simp] theorem State.setArray_faultstat (s : State) (arr : List Entry) :
    (s.setArray arr).faultstat = s.faultstat := rfl
@[simp] theorem State.setArray_chans (s : State) (arr : List Entry) :
    (s.setArray arr).chans = s.chans := rfl
@[simp] theorem State.setArray_array (s : State) (arr : List Entry) :
    (s.setArray arr).array = arr := rfl
@[simp] theorem State.setArray_stage (s : State) (arr : List Entry) :
    (s.setArray arr).stage = s.stage := rfl
@[simp] theorem State.setArray_pending (s : State) (arr : List Entry) :
    (s.setArray arr).pending = s.pending := rfl
@[simp] theorem State.setArray_response (s : State) (arr : List Entry) :
    (s.setArray arr).response = s.response := rfl
@[simp] theorem State.setArray_draws (s : State) (arr : List Entry) :
    (s.setArray arr).draws = s.draws := rfl

/-! ### setStage -/

@[simp] theorem State.setStage_cfg (s : State) (l : List Byte) :
    (s.setStage l).cfg = s.cfg := rfl
@[simp] theorem State.setStage_addrValid (s : State) (l : List Byte) :
    (s.setStage l).addrValid = s.addrValid := rfl
@[simp] theorem State.setStage_localAddr (s : State) (l : List Byte) :
    (s.setStage l).localAddr = s.localAddr := rfl
@[simp] theorem State.setStage_crcAcc (s : State) (l : List Byte) :
    (s.setStage l).crcAcc = s.crcAcc := rfl
@[simp] theorem State.setStage_faultstat (s : State) (l : List Byte) :
    (s.setStage l).faultstat = s.faultstat := rfl
@[simp] theorem State.setStage_chans (s : State) (l : List Byte) :
    (s.setStage l).chans = s.chans := rfl
@[simp] theorem State.setStage_array (s : State) (l : List Byte) :
    (s.setStage l).array = s.array := rfl
@[simp] theorem State.setStage_stage (s : State) (l : List Byte) :
    (s.setStage l).stage = l := rfl
@[simp] theorem State.setStage_pending (s : State) (l : List Byte) :
    (s.setStage l).pending = s.pending := rfl
@[simp] theorem State.setStage_response (s : State) (l : List Byte) :
    (s.setStage l).response = s.response := rfl
@[simp] theorem State.setStage_draws (s : State) (l : List Byte) :
    (s.setStage l).draws = s.draws := rfl

/-! ### setCrcAcc -/

@[simp] theorem State.setCrcAcc_cfg (s : State) (v : Byte) :
    (s.setCrcAcc v).cfg = s.cfg := rfl
@[simp] theorem State.setCrcAcc_addrValid (s : State) (v : Byte) :
    (s.setCrcAcc v).addrValid = s.addrValid := rfl
@[simp] theorem State.setCrcAcc_localAddr (s : State) (v : Byte) :
    (s.setCrcAcc v).localAddr = s.localAddr := rfl
@[simp] theorem State.setCrcAcc_crcAcc (s : State) (v : Byte) :
    (s.setCrcAcc v).crcAcc = v := rfl
@[simp] theorem State.setCrcAcc_faultstat (s : State) (v : Byte) :
    (s.setCrcAcc v).faultstat = s.faultstat := rfl
@[simp] theorem State.setCrcAcc_chans (s : State) (v : Byte) :
    (s.setCrcAcc v).chans = s.chans := rfl
@[simp] theorem State.setCrcAcc_array (s : State) (v : Byte) :
    (s.setCrcAcc v).array = s.array := rfl
@[simp] theorem State.setCrcAcc_stage (s : State) (v : Byte) :
    (s.setCrcAcc v).stage = s.stage := rfl
@[simp] theorem State.setCrcAcc_pending (s : State) (v : Byte) :
    (s.setCrcAcc v).pending = s.pending := rfl
@[simp] theorem State.setCrcAcc_response (s : State) (v : Byte) :
    (s.setCrcAcc v).response = s.response := rfl
@[simp] theorem State.setCrcAcc_draws (s : State) (v : Byte) :
    (s.setCrcAcc v).draws = s.draws := rfl

/-! ### setAddr -/

@[simp] theorem State.setAddr_cfg (s : State) (a : Byte) :
    (s.setAddr a).cfg = s.cfg := rfl
@[simp] theorem State.setAddr_addrValid (s : State) (a : Byte) :
    (s.setAddr a).addrValid = true := rfl
@[simp] theorem State.setAddr_localAddr (s : State) (a : Byte) :
    (s.setAddr a).localAddr = a := rfl
@[simp] theorem State.setAddr_crcAcc (s : State) (a : Byte) :
    (s.setAddr a).crcAcc = s.crcAcc := rfl
@[simp] theorem State.setAddr_faultstat (s : State) (a : Byte) :
    (s.setAddr a).faultstat = s.faultstat := rfl
@[simp] theorem State.setAddr_chans (s : State) (a : Byte) :
    (s.setAddr a).chans = s.chans := rfl
@[simp] theorem State.setAddr_array (s : State) (a : Byte) :
    (s.setAddr a).array = s.array := rfl
@[simp] theorem State.setAddr_stage (s : State) (a : Byte) :
    (s.setAddr a).stage = s.stage := rfl
@[simp] theorem State.setAddr_pending (s : State) (a : Byte) :
    (s.setAddr a).pending = s.pending := rfl
@[simp] theorem State.setAddr_response (s : State) (a : Byte) :
    (s.setAddr a).response = s.response := rfl
@[simp] theorem State.setAddr_draws (s : State) (a : Byte) :
    (s.setAddr a).draws = s.draws := rfl

/-! ### nextDraw -/

@[simp] theorem State.nextDraw_cfg (s : State) :
    (s.nextDraw).cfg = s.cfg := rfl
@[simp] theorem State.nextDraw_addrValid (s : State) :
    (s.nextDraw).addrValid = s.addrValid := rfl
@[simp] theorem State.nextDraw_localAddr (s : State) :
    (s.nextDraw).localAddr = s.localAddr := rfl
@[simp] theorem State.nextDraw_crcAcc (s : State) :
    (s.nextDraw).crcAcc = s.crcAcc := rfl
@[simp] theorem State.nextDraw_faultstat (s : State) :
    (s.nextDraw).faultstat = s.faultstat := rfl
@[simp] theorem State.nextDraw_chans (s : State) :
    (s.nextDraw).chans = s.chans := rfl
@[simp] theorem State.nextDraw_array (s : State) :
    (s.nextDraw).array = s.array := rfl
@[simp] theorem State.nextDraw_stage (s : State) :
    (s.nextDraw).stage = s.stage := rfl
@[simp] theorem State.nextDraw_pending (s : State) :
    (s.nextDraw).pending = s.pending := rfl
@[simp] theorem State.nextDraw_response (s : State) :
    (s.nextDraw).response = s.response := rfl
@[simp] theorem State.nextDraw_draws (s : State) :
    (s.nextDraw).draws = s.draws + 1 := rfl

/-! ### respond -/

@[simp] theorem State.respond_cfg (s : State) (st : Status) (v : Half) :
    (s.respond st v).cfg = s.cfg := rfl
@[simp] theorem State.respond_addrValid (s : State) (st : Status) (v : Half) :
    (s.respond st v).addrValid = s.addrValid := rfl
@[simp] theorem State.respond_localAddr (s : State) (st : Status) (v : Half) :
    (s.respond st v).localAddr = s.localAddr := rfl
@[simp] theorem State.respond_crcAcc (s : State) (st : Status) (v : Half) :
    (s.respond st v).crcAcc = s.crcAcc := rfl
@[simp] theorem State.respond_faultstat (s : State) (st : Status) (v : Half) :
    (s.respond st v).faultstat = s.faultstat := rfl
@[simp] theorem State.respond_chans (s : State) (st : Status) (v : Half) :
    (s.respond st v).chans = s.chans := rfl
@[simp] theorem State.respond_array (s : State) (st : Status) (v : Half) :
    (s.respond st v).array = s.array := rfl
@[simp] theorem State.respond_stage (s : State) (st : Status) (v : Half) :
    (s.respond st v).stage = s.stage := rfl
@[simp] theorem State.respond_pending (s : State) (st : Status) (v : Half) :
    (s.respond st v).pending = s.pending := rfl
@[simp] theorem State.respond_response (s : State) (st : Status) (v : Half) :
    (s.respond st v).response = some { status := st, result := v } := rfl
@[simp] theorem State.respond_draws (s : State) (st : Status) (v : Half) :
    (s.respond st v).draws = s.draws := rfl

/-! ### raiseFault -/

@[simp] theorem State.raiseFault_cfg (s : State) (f : FaultCode) :
    (s.raiseFault f).cfg = s.cfg := rfl
@[simp] theorem State.raiseFault_addrValid (s : State) (f : FaultCode) :
    (s.raiseFault f).addrValid = s.addrValid := rfl
@[simp] theorem State.raiseFault_localAddr (s : State) (f : FaultCode) :
    (s.raiseFault f).localAddr = s.localAddr := rfl
@[simp] theorem State.raiseFault_crcAcc (s : State) (f : FaultCode) :
    (s.raiseFault f).crcAcc = s.crcAcc := rfl
@[simp] theorem State.raiseFault_faultstat (s : State) (f : FaultCode) :
    (s.raiseFault f).faultstat = latch s.faultstat f := rfl
@[simp] theorem State.raiseFault_chans (s : State) (f : FaultCode) :
    (s.raiseFault f).chans = s.chans := rfl
@[simp] theorem State.raiseFault_array (s : State) (f : FaultCode) :
    (s.raiseFault f).array = s.array := rfl
@[simp] theorem State.raiseFault_stage (s : State) (f : FaultCode) :
    (s.raiseFault f).stage = s.stage := rfl
@[simp] theorem State.raiseFault_pending (s : State) (f : FaultCode) :
    (s.raiseFault f).pending = s.pending := rfl
@[simp] theorem State.raiseFault_response (s : State) (f : FaultCode) :
    (s.raiseFault f).response = some { status := .fault f, result := 0 } := rfl
@[simp] theorem State.raiseFault_draws (s : State) (f : FaultCode) :
    (s.raiseFault f).draws = s.draws := rfl

/-! ### arrive -/

@[simp] theorem State.arrive_cfg (s : State) (p : Nat) (l : List Byte) :
    (s.arrive p l).cfg = s.cfg := rfl
@[simp] theorem State.arrive_addrValid (s : State) (p : Nat) (l : List Byte) :
    (s.arrive p l).addrValid = s.addrValid := rfl
@[simp] theorem State.arrive_localAddr (s : State) (p : Nat) (l : List Byte) :
    (s.arrive p l).localAddr = s.localAddr := rfl
@[simp] theorem State.arrive_crcAcc (s : State) (p : Nat) (l : List Byte) :
    (s.arrive p l).crcAcc = s.crcAcc := rfl
@[simp] theorem State.arrive_faultstat (s : State) (p : Nat) (l : List Byte) :
    (s.arrive p l).faultstat = s.faultstat := rfl
@[simp] theorem State.arrive_chans (s : State) (p : Nat) (l : List Byte) :
    (s.arrive p l).chans = s.chans.set p { s.chan p with src := (s.chan p).src ++ l } := rfl
@[simp] theorem State.arrive_array (s : State) (p : Nat) (l : List Byte) :
    (s.arrive p l).array = s.array := rfl
@[simp] theorem State.arrive_stage (s : State) (p : Nat) (l : List Byte) :
    (s.arrive p l).stage = s.stage := rfl
@[simp] theorem State.arrive_pending (s : State) (p : Nat) (l : List Byte) :
    (s.arrive p l).pending = s.pending := rfl
@[simp] theorem State.arrive_response (s : State) (p : Nat) (l : List Byte) :
    (s.arrive p l).response = s.response := rfl
@[simp] theorem State.arrive_draws (s : State) (p : Nat) (l : List Byte) :
    (s.arrive p l).draws = s.draws := rfl

/-! ### take -/

@[simp] theorem State.take_cfg (s : State) (p n : Nat) :
    (s.take p n).cfg = s.cfg := rfl
@[simp] theorem State.take_addrValid (s : State) (p n : Nat) :
    (s.take p n).addrValid = s.addrValid := rfl
@[simp] theorem State.take_localAddr (s : State) (p n : Nat) :
    (s.take p n).localAddr = s.localAddr := rfl
@[simp] theorem State.take_crcAcc (s : State) (p n : Nat) :
    (s.take p n).crcAcc = s.crcAcc := rfl
@[simp] theorem State.take_faultstat (s : State) (p n : Nat) :
    (s.take p n).faultstat = s.faultstat := rfl
@[simp] theorem State.take_chans (s : State) (p n : Nat) :
    (s.take p n).chans = s.chans.set p { s.chan p with snk := (s.chan p).snk.drop n } := rfl
@[simp] theorem State.take_array (s : State) (p n : Nat) :
    (s.take p n).array = s.array := rfl
@[simp] theorem State.take_stage (s : State) (p n : Nat) :
    (s.take p n).stage = s.stage := rfl
@[simp] theorem State.take_pending (s : State) (p n : Nat) :
    (s.take p n).pending = s.pending := rfl
@[simp] theorem State.take_response (s : State) (p n : Nat) :
    (s.take p n).response = s.response := rfl
@[simp] theorem State.take_draws (s : State) (p n : Nat) :
    (s.take p n).draws = s.draws := rfl

/-! ### resetEvent -/

@[simp] theorem State.resetEvent_cfg (s : State) :
    (s.resetEvent).cfg = s.cfg := rfl
@[simp] theorem State.resetEvent_addrValid (s : State) :
    (s.resetEvent).addrValid = false := rfl
@[simp] theorem State.resetEvent_localAddr (s : State) :
    (s.resetEvent).localAddr = 0 := rfl
@[simp] theorem State.resetEvent_crcAcc (s : State) :
    (s.resetEvent).crcAcc = 0 := rfl
@[simp] theorem State.resetEvent_faultstat (s : State) :
    (s.resetEvent).faultstat = 0 := rfl
@[simp] theorem State.resetEvent_chans (s : State) :
    (s.resetEvent).chans = s.chans.map Channel.afterReset := rfl
@[simp] theorem State.resetEvent_array (s : State) :
    (s.resetEvent).array = s.array.map fun _ => Entry.atReset := rfl
@[simp] theorem State.resetEvent_stage (s : State) :
    (s.resetEvent).stage = [] := rfl
@[simp] theorem State.resetEvent_pending (s : State) :
    (s.resetEvent).pending = s.pending := rfl
@[simp] theorem State.resetEvent_response (s : State) :
    (s.resetEvent).response = none := rfl
@[simp] theorem State.resetEvent_draws (s : State) :
    (s.resetEvent).draws = s.draws := rfl

/-! ### Reading a channel or an entry -/

theorem State.chan_def (s : State) (p : Nat) : s.chan p = (s.chans[p]?).getD Channel.atReset := by
  simp [State.chan]

theorem entryAt_def (arr : List Entry) (i : Nat) : entryAt arr i = (arr[i]?).getD Entry.atReset := by
  simp [entryAt]

theorem State.chan_congr {s t : State} (h : t.chans = s.chans) (p : Nat) : t.chan p = s.chan p := by
  simp [State.chan, h]

theorem State.entry_congr {s t : State} (h : t.array = s.array) (i : Nat) : t.entry i = s.entry i := by
  simp [State.entry, h]

/-- A channel read after a channel was replaced. -/
theorem State.chan_setChan (s : State) (p q : Nat) (c : Channel) :
    (s.setChan p c).chan q = if p = q ∧ p < s.chans.length then c else s.chan q := by
  simp only [State.chan_def, State.setChan_chans, List.getElem?_set]
  by_cases h : p = q
  · subst h; by_cases h2 : p < s.chans.length <;> simp [h2]
  · simp [h]

/-- Another channel's replacement is not seen. -/
theorem State.chan_setChan_ne (s : State) {p q : Nat} (c : Channel) (h : p ≠ q) :
    (s.setChan p c).chan q = s.chan q := by
  simp [State.chan_setChan, h]

/-- A channel that exists reads as what replaced it. -/
theorem State.chan_setChan_self (s : State) {p : Nat} (c : Channel) (h : p < s.chans.length) :
    (s.setChan p c).chan p = c := by
  simp [State.chan_setChan, h]

/-- An entry read after an entry was replaced. -/
theorem entryAt_set (arr : List Entry) (i j : Nat) (e : Entry) :
    entryAt (arr.set i e) j = if i = j ∧ i < arr.length then e else entryAt arr j := by
  simp only [entryAt_def, List.getElem?_set]
  by_cases h : i = j
  · subst h; by_cases h2 : i < arr.length <;> simp [h2]
  · simp [h]

/-- An existing channel is a member of the list of channels. -/
theorem State.chan_mem {s : State} {p : Nat} (h : p < s.chans.length) : s.chan p ∈ s.chans := by
  simp [State.chan_def, h]

/-- An existing entry is a member of the array. -/
theorem entryAt_mem {arr : List Entry} {i : Nat} (h : i < arr.length) : entryAt arr i ∈ arr := by
  simp [entryAt_def, h]

@[simp] theorem State.entry_setChan (s : State) (p : Nat) (c : Channel) (j : Nat) :
    (s.setChan p c).entry j = s.entry j := rfl
@[simp] theorem State.entry_setRing (s : State) (p : Nat) (r : RingBuf) (j : Nat) :
    (s.setRing p r).entry j = s.entry j := rfl
@[simp] theorem State.chan_setEntry (s : State) (i : Nat) (e : Entry) (q : Nat) :
    (s.setEntry i e).chan q = s.chan q := rfl
@[simp] theorem State.chan_setArray (s : State) (arr : List Entry) (q : Nat) :
    (s.setArray arr).chan q = s.chan q := rfl
@[simp] theorem State.chan_setStage (s : State) (l : List Byte) (q : Nat) :
    (s.setStage l).chan q = s.chan q := rfl
@[simp] theorem State.entry_setStage (s : State) (l : List Byte) (j : Nat) :
    (s.setStage l).entry j = s.entry j := rfl
@[simp] theorem State.chan_setCrcAcc (s : State) (v : Byte) (q : Nat) :
    (s.setCrcAcc v).chan q = s.chan q := rfl
@[simp] theorem State.entry_setCrcAcc (s : State) (v : Byte) (j : Nat) :
    (s.setCrcAcc v).entry j = s.entry j := rfl
@[simp] theorem State.chan_setAddr (s : State) (a : Byte) (q : Nat) :
    (s.setAddr a).chan q = s.chan q := rfl
@[simp] theorem State.entry_setAddr (s : State) (a : Byte) (j : Nat) :
    (s.setAddr a).entry j = s.entry j := rfl
@[simp] theorem State.chan_nextDraw (s : State) (q : Nat) :
    (s.nextDraw).chan q = s.chan q := rfl
@[simp] theorem State.entry_nextDraw (s : State) (j : Nat) :
    (s.nextDraw).entry j = s.entry j := rfl
@[simp] theorem State.chan_respond (s : State) (st : Status) (v : Half) (q : Nat) :
    (s.respond st v).chan q = s.chan q := rfl
@[simp] theorem State.entry_respond (s : State) (st : Status) (v : Half) (j : Nat) :
    (s.respond st v).entry j = s.entry j := rfl
@[simp] theorem State.chan_raiseFault (s : State) (f : FaultCode) (q : Nat) :
    (s.raiseFault f).chan q = s.chan q := rfl
@[simp] theorem State.entry_raiseFault (s : State) (f : FaultCode) (j : Nat) :
    (s.raiseFault f).entry j = s.entry j := rfl
@[simp] theorem State.entry_arrive (s : State) (p : Nat) (l : List Byte) (j : Nat) :
    (s.arrive p l).entry j = s.entry j := rfl
@[simp] theorem State.entry_take (s : State) (p n : Nat) (j : Nat) :
    (s.take p n).entry j = s.entry j := rfl

/-- An entry of the shared array after one was replaced. -/
theorem State.entry_setEntry (s : State) (i j : Nat) (e : Entry) :
    (s.setEntry i e).entry j = if i = j ∧ i < s.array.length then e else s.entry j :=
  entryAt_set s.array i j e

end Sys2Proof.Machine
end

