-- ==== Sys2Proof/Laws/Exec.lean ====
section
/-!
SUPPORT. The shared parts of every meaning, said once: answering, faulting, the checks of
60_exceptions.md R312, and decoding by fields.
-/

namespace Sys2Proof.Machine

/-- An `OK` answer in the words of the statements. -/
theorem State.respond_ok (s : State) (v : Half) : s.respond .ok v = s.answered v := rfl

/-- Taking a fault in the words of the statements (60_exceptions.md R316). -/
theorem State.raiseFault_eq (s : State) (f : FaultCode) : s.raiseFault f = s.faulted f := by
  cases f <;> rfl

@[simp] theorem guarded_none (s : State) (k : Answer) : guarded none s k = k := rfl

@[simp] theorem guarded_some (f : FaultCode) (s : State) (k : Answer) :
    guarded (some f) s k = .next (s.faulted f) := by
  simp [guarded, State.raiseFault_eq]

/-- What a guarded command can answer: its fault's state, or what it does when the check passes. -/
theorem guarded_next {check : Option FaultCode} {s t : State} {k : Answer}
    (h : guarded check s k = .next t) :
    (∃ f, check = some f ∧ t = s.faulted f) ∨ (check = none ∧ k = .next t) := by
  cases check with
  | none => exact .inr ⟨rfl, h⟩
  | some f =>
    rw [guarded_some] at h
    exact .inl ⟨f, rfl, (Host.Outcome.next.inj h).symm⟩

/-! ### The checks -/

@[simp] theorem faultUnless_true (f : FaultCode) : faultUnless true f = none := rfl
@[simp] theorem faultUnless_false (f : FaultCode) : faultUnless false f = some f := rfl

theorem State.portFault_badPort {s : State} {p : Nat} (h : s.cfg.nports ≤ p) :
    s.portFault p = some .badPort := by
  simp [State.portFault, State.portNumberFault, faultUnless, Nat.not_lt.mpr h]

theorem State.portFault_closed {s : State} {p : Nat} (h : p < s.cfg.nports)
    (hc : (s.chan p).isOpen = false) : s.portFault p = some .portClosed := by
  simp [State.portFault, State.portNumberFault, h, hc]

theorem State.portFault_none {s : State} {p : Nat} (h : p < s.cfg.nports)
    (hc : (s.chan p).isOpen = true) : s.portFault p = none := by
  simp [State.portFault, State.portNumberFault, h, hc]

/-- The channel check passes exactly for an existing open channel. -/
theorem State.portFault_eq_none_iff (s : State) (p : Nat) :
    s.portFault p = none ↔ p < s.cfg.nports ∧ (s.chan p).isOpen = true := by
  constructor
  · intro h
    by_cases h1 : p < s.cfg.nports
    · cases hc : (s.chan p).isOpen with
      | true => exact ⟨h1, rfl⟩
      | false => rw [State.portFault_closed h1 hc] at h; cases h
    · rw [State.portFault_badPort (Nat.not_lt.mp h1)] at h; cases h
  · exact fun h => State.portFault_none h.1 h.2

/-- A command whose meaning starts with the channel check makes the checks of R312 steps 3 and 4. -/
theorem portChecks_of_guarded {i : Instr} {p : Byte} {s : State} {more : Option FaultCode} {k : Answer}
    (h : exec i s = guarded ((s.portFault p.toNat).or more) s k) : PortChecks i p s := by
  refine ⟨fun hp => ?_, fun hp hc => ?_⟩
  · simp [FaultsWith, h, State.portFault_badPort hp]
  · simp [FaultsWith, h, State.portFault_closed hp hc]

/-- A command word at the head of the inputs is run. -/
theorem step_command {s : State} {w : CmdWord} {rest : List Input}
    (h : s.pending = .command w :: rest) : step s = runWord w { s with pending := rest } := by
  simp [step, h, runInput]

/-- A word that stands for no command faults. -/
theorem step_reject {s : State} {w : CmdWord} {rest : List Input} {r : Reject}
    (h : s.pending = .command w :: rest) (hr : decode w = .error r) :
    step s = .next (State.faulted { s with pending := rest } (rejectFault r)) := by
  rw [step_command h, runWord, hr, ← State.raiseFault_eq]

/-- How the words with an opcode decode, from how its fields do. -/
theorem decodesAs_of_fields {opc : Byte} {z : Byte → Half → Half → Bool}
    {mk : Byte → Half → Half → Instr}
    (h : ∀ p a b, decodeFields opc p a b = if z p a b then .ok (mk p a b) else .error .reserved) :
    DecodesAs opc z mk := by
  intro p a b
  have e := (decode_cmdWord opc p a b).trans (h p a b)
  refine ⟨fun hz => ?_, fun hz s rest hs => ?_⟩
  · rw [e, hz]; rfl
  · rw [hz] at e
    exact step_reject (r := .reserved) hs e

/-- The parts of the invariant, by name. -/
theorem State.Inv.chans_length {s : State} (h : s.Inv) : s.chans.length = s.cfg.nports := h.2.1.1

theorem State.Inv.array_length {s : State} (h : s.Inv) : s.array.length = s.cfg.arraySize := h.2.2.1.1

theorem State.Inv.chan_wf {s : State} (h : s.Inv) {p : Nat} (hp : p < s.cfg.nports) :
    (s.chan p).Wf s.cfg :=
  h.2.1.2 _ (State.chan_mem (h.chans_length ▸ hp))

theorem State.Inv.ring_wf {s : State} (h : s.Inv) {p : Byte} (hp : s.PortOk p) :
    (s.chan p.toNat).ring.Wf s.cfg.rbMaxCap :=
  (h.chan_wf hp.1).1

end Sys2Proof.Machine
end

