-- ==== Sys2Proof/Laws/Ring.lean ====
section
/-!
SUPPORT. What the ring-buffer operations do to the logical content `q` (10_state.md R38) and that they
keep the ring's ranges (R37).
-/

namespace Sys2Proof.Machine

@[simp] theorem RingBuf.q_length (r : RingBuf) : r.q.length = r.count := by simp [RingBuf.q]

theorem RingBuf.q_getElem? (r : RingBuf) {i : Nat} (h : i < r.count) : r.q[i]? = some (r.peek i) := by
  simp [RingBuf.q, h]

@[simp] theorem RingBuf.q_eq_nil (r : RingBuf) : r.q = [] ↔ r.count = 0 := by
  rw [← List.length_eq_zero_iff, RingBuf.q_length]

@[simp] theorem RingBuf.push_cap (r : RingBuf) (b : Byte) : (r.push b).cap = r.cap := rfl
@[simp] theorem RingBuf.push_head (r : RingBuf) (b : Byte) : (r.push b).head = r.head := rfl
@[simp] theorem RingBuf.push_count (r : RingBuf) (b : Byte) : (r.push b).count = r.count + 1 := rfl
@[simp] theorem RingBuf.dropOne_cap (r : RingBuf) : r.dropOne.cap = r.cap := rfl
@[simp] theorem RingBuf.dropOne_slot (r : RingBuf) : r.dropOne.slot = r.slot := rfl
@[simp] theorem RingBuf.dropOne_count (r : RingBuf) : r.dropOne.count = r.count - 1 := rfl
@[simp] theorem RingBuf.closed_count (r : RingBuf) : r.closed.count = 0 := rfl
@[simp] theorem RingBuf.fresh_count (d c : Nat) : (RingBuf.fresh d c).count = 0 := rfl
@[simp] theorem RingBuf.fresh_cap (d c : Nat) : (RingBuf.fresh d c).cap = c := rfl
@[simp] theorem RingBuf.fresh_head (d c : Nat) : (RingBuf.fresh d c).head = 0 := rfl
@[simp] theorem RingBuf.fresh_slot_length (d c : Nat) : (RingBuf.fresh d c).slot.length = c := by
  simp [RingBuf.fresh]

/-- Two logical positions below the capacity lie in different slots. -/
theorem slot_inj {h c i j : Nat} (hi : i < c) (hj : j < c) (e : (h + i) % c = (h + j) % c) : i = j := by
  have key : i % c = j % c := Nat.ModEq.add_left_cancel' h e
  rwa [Nat.mod_eq_of_lt hi, Nat.mod_eq_of_lt hj] at key

/-- Positions below the count keep their bytes when a byte is pushed. -/
theorem RingBuf.peek_push_lt {r : RingBuf} (b : Byte) {i : Nat} (hi : i < r.count)
    (hc : r.count < r.cap) : (r.push b).peek i = r.peek i := by
  have hne : (r.head + r.count) % r.cap ≠ (r.head + i) % r.cap := fun e =>
    absurd (slot_inj hc (by omega) e) (by omega)
  simp only [RingBuf.peek, RingBuf.push, List.getD_eq_getElem?_getD, List.getElem?_set, hne, if_false]

/-- The pushed byte stands at the old count. -/
theorem RingBuf.peek_push_count {r : RingBuf} (b : Byte) (hs : r.slot.length = r.cap)
    (hc : r.count < r.cap) : (r.push b).peek r.count = b := by
  have hlt : (r.head + r.count) % r.cap < r.slot.length := by
    rw [hs]; exact Nat.mod_lt _ (by omega)
  simp [RingBuf.peek, RingBuf.push, hlt]

/-- A push appends its byte to the content (40_ring_buffer.md R140). -/
theorem RingBuf.push_q {r : RingBuf} (b : Byte) (hs : r.slot.length = r.cap) (hc : r.count < r.cap) :
    (r.push b).q = r.q ++ [b] := by
  simp only [RingBuf.q, RingBuf.push_count, List.range_succ, List.map_append, List.map_cons,
    List.map_nil, RingBuf.peek_push_count b hs hc]
  congr 1
  exact List.map_congr_left fun i hi => RingBuf.peek_push_lt b (List.mem_range.mp hi) hc

/-- Position `i` after a removal is position `i + 1` before it. -/
theorem RingBuf.peek_dropOne (r : RingBuf) (i : Nat) : r.dropOne.peek i = r.peek (i + 1) := by
  have h : ((r.head + 1) % r.cap + i) % r.cap = (r.head + (i + 1)) % r.cap := by
    rw [Nat.mod_add_mod]; congr 1; omega
  simp only [RingBuf.peek, RingBuf.dropOne, h]

/-- A removal drops the oldest byte of the content (40_ring_buffer.md R141). -/
theorem RingBuf.dropOne_q (r : RingBuf) : r.dropOne.q = r.q.drop 1 := by
  apply List.ext_getElem?
  intro i
  by_cases h : i + 1 < r.count
  · rw [RingBuf.q_getElem? _ (by simp; omega), RingBuf.peek_dropOne, List.getElem?_drop,
      Nat.add_comm 1 i, RingBuf.q_getElem? _ h]
  · rw [List.getElem?_eq_none (by simp; omega), List.getElem?_eq_none (by simp; omega)]

/-- A nonempty content starts with the byte at position 0. -/
theorem RingBuf.q_cons {r : RingBuf} (h : r.count ≠ 0) : r.q = r.peek 0 :: r.dropOne.q := by
  rw [RingBuf.dropOne_q]
  have h0 : 0 < r.q.length := by simp; omega
  have e0 : r.q[0] = r.peek 0 := by simp [RingBuf.q]
  rw [← e0]; simpa using (List.drop_eq_getElem_cons h0)

@[simp] theorem RingBuf.dropFront_cap (n : Nat) (r : RingBuf) : (RingBuf.dropFront n r).cap = r.cap := by
  induction n generalizing r with
  | zero => rfl
  | succ n ih => simp [RingBuf.dropFront, ih]

@[simp] theorem RingBuf.dropFront_slot (n : Nat) (r : RingBuf) :
    (RingBuf.dropFront n r).slot = r.slot := by
  induction n generalizing r with
  | zero => rfl
  | succ n ih => simp [RingBuf.dropFront, ih]

@[simp] theorem RingBuf.dropFront_count (n : Nat) (r : RingBuf) :
    (RingBuf.dropFront n r).count = r.count - n := by
  induction n generalizing r with
  | zero => rfl
  | succ n ih => simp [RingBuf.dropFront, ih]; omega

/-- `DropFront` drops the front of the content (43_scanner.md). -/
@[simp] theorem RingBuf.dropFront_q (n : Nat) (r : RingBuf) : (RingBuf.dropFront n r).q = r.q.drop n := by
  induction n generalizing r with
  | zero => simp [RingBuf.dropFront]
  | succ n ih => rw [RingBuf.dropFront, ih, RingBuf.dropOne_q, List.drop_drop, Nat.add_comm]

theorem RingBuf.fresh_q (d c : Nat) : (RingBuf.fresh d c).q = [] := by simp

/-! ### The ranges are kept -/

theorem RingBuf.Wf.push {m : Nat} {r : RingBuf} (h : r.Wf m) (hc : r.count < r.cap) (b : Byte) :
    (r.push b).Wf m := by
  obtain ⟨h1, h2, h3, h4⟩ := h
  exact ⟨h1, by simp [RingBuf.push, h2], h3, hc⟩

theorem RingBuf.Wf.dropOne {m : Nat} {r : RingBuf} (h : r.Wf m) : r.dropOne.Wf m := by
  obtain ⟨h1, h2, h3, h4⟩ := h
  exact ⟨h1, h2, Nat.mod_lt _ (by omega), by simp; omega⟩

theorem RingBuf.Wf.dropFront {m : Nat} (n : Nat) {r : RingBuf} (h : r.Wf m) :
    (RingBuf.dropFront n r).Wf m := by
  induction n generalizing r with
  | zero => exact h
  | succ n ih => exact ih h.dropOne

theorem RingBuf.Wf.closed {m : Nat} {r : RingBuf} (h : r.Wf m) : r.closed.Wf m :=
  ⟨h.1, h.2.1, h.2.2.1, Nat.zero_le _⟩

theorem RingBuf.fresh_wf {m c : Nat} (d : Nat) (h1 : 1 ≤ c) (hm : c ≤ m) : (RingBuf.fresh d c).Wf m :=
  ⟨⟨h1, hm⟩, by simp, by simp; omega, by simp⟩

theorem RingBuf.atReset_wf {m : Nat} (h : 1 ≤ m) : RingBuf.atReset.Wf m :=
  ⟨⟨Nat.le_refl _, h⟩, rfl, Nat.zero_lt_one, Nat.zero_le _⟩

/-! ### Draining -/

/-- The drain's whole effect (43_scanner.md R211) on a ring in its ranges: the first
`min (len SRC) (CAP - COUNT)` bytes move to the end of the content, the rest stay. -/
theorem drain_spec {m : Nat} (l : List Byte) {r : RingBuf} (h : r.Wf m) :
    (drain r l).1.Wf m ∧ (drain r l).1.cap = r.cap ∧
      (drain r l).1.q = r.q ++ l.take (r.cap - r.count) ∧ (drain r l).2 = l.drop (r.cap - r.count) := by
  induction l generalizing r with
  | nil => simpa [drain] using h
  | cons b rest ih =>
    by_cases hc : r.count < r.cap
    · obtain ⟨a1, a2, a3, a4⟩ := ih (h.push hc b)
      have e : r.cap - r.count = (r.cap - (r.count + 1)) + 1 := by omega
      rw [drain, if_pos hc]
      refine ⟨a1, a2, ?_, ?_⟩
      · rw [a3, RingBuf.push_q b h.2.1 hc, e]; simp
      · rw [a4, e]; simp
    · have e : r.cap - r.count = 0 := by omega
      rw [drain, if_neg hc, e]
      exact ⟨h, rfl, by simp, by simp⟩

end Sys2Proof.Machine
end

