-- ==== Sys2Proof/Laws/Scan.lean ====
section
/-!
SUPPORT. What the scanner's passes and loop do: to the ring's ranges, to the logical content, and to the
shared array.
-/

namespace Sys2Proof.Machine

/-- A shared array after some entries received on channel `p`. -/
def Commits (cfg : Config) (p : Nat) (arr arr' : List Entry) : Prop :=
  ∃ es : List (Half × Half), arr' = es.foldl (commitEntry cfg p) arr

theorem Commits.refl (cfg : Config) (p : Nat) (arr : List Entry) : Commits cfg p arr arr := ⟨[], rfl⟩

theorem Commits.trans {cfg : Config} {p : Nat} {a b c : List Entry} (h : Commits cfg p a b)
    (k : Commits cfg p b c) : Commits cfg p a c := by
  obtain ⟨x, rfl⟩ := h
  obtain ⟨y, rfl⟩ := k
  exact ⟨x ++ y, by rw [List.foldl_append]⟩

/-- One received entry's effect on entry `j` (43_scanner.md R219). -/
theorem commitEntry_entry (cfg : Config) (p : Nat) (arr : List Entry) (e : Half × Half) (j : Nat) :
    entryAt (commitEntry cfg p arr e) j = entryAt arr j ∨
      ((entryAt arr j).writableBy p = true ∧
        entryAt (commitEntry cfg p arr e) j = (entryAt arr j).written e.2) := by
  unfold commitEntry
  simp only
  split_ifs with h
  · rw [entryAt_set]
    split_ifs with hj
    · obtain ⟨rfl, -⟩ := hj
      exact .inr ⟨h.2, rfl⟩
    · exact .inl rfl
  · exact .inl rfl

@[simp] theorem commitEntry_length (cfg : Config) (p : Nat) (arr : List Entry) (e : Half × Half) :
    (commitEntry cfg p arr e).length = arr.length := by
  unfold commitEntry
  simp only
  split_ifs <;> simp

theorem Commits.length {cfg : Config} {p : Nat} {arr arr' : List Entry} (h : Commits cfg p arr arr') :
    arr'.length = arr.length := by
  obtain ⟨es, rfl⟩ := h
  induction es generalizing arr with
  | nil => rfl
  | cons e es ih => rw [List.foldl_cons, ih, commitEntry_length]

/-- What received entries can do to entry `j`: nothing, or, where the owner allows it, a new value
marked unread; the owner stays. -/
theorem Commits.entry {cfg : Config} {p : Nat} {arr arr' : List Entry} (h : Commits cfg p arr arr')
    (j : Nat) :
    entryAt arr' j = entryAt arr j ∨
      ((entryAt arr j).writableBy p = true ∧ ∃ v, entryAt arr' j = (entryAt arr j).written v) := by
  obtain ⟨es, rfl⟩ := h
  induction es generalizing arr with
  | nil => exact .inl rfl
  | cons e es ih =>
    rw [List.foldl_cons]
    rcases commitEntry_entry cfg p arr e j with h1 | ⟨hw, h1⟩ <;>
      rcases @ih (commitEntry cfg p arr e) with h2 | ⟨hw2, v, h2⟩ <;> rw [h2, h1] <;>
      rw [h1] at *
    · exact .inl rfl
    · exact .inr ⟨hw2, v, rfl⟩
    · exact .inr ⟨hw, e.2, rfl⟩
    · exact .inr ⟨hw, v, rfl⟩

/-! ### One pass -/

/-- Synchronizing leaves the content from the first `HEADER_0` on (43_scanner.md R213). -/
theorem synchronize_q (r : RingBuf) : (synchronize r).q = r.q.dropWhile (· != header0) := by
  rw [synchronize, RingBuf.dropFront_q, syncCount]
  conv_lhs => rw [← List.takeWhile_append_dropWhile (p := (· != header0)) (l := r.q)]
  rw [List.takeWhile_append_dropWhile]
  conv_lhs =>
    arg 2
    rw [← List.takeWhile_append_dropWhile (p := (· != header0)) (l := r.q)]
  rw [List.drop_left]

theorem synchronize_count_le (r : RingBuf) : (synchronize r).count ≤ r.count := by
  simp [synchronize]

/-- What one pass can be: an exit that changes nothing, one byte discarded, or a frame committed; a
pass that goes on leaves fewer bytes. -/
theorem scanPass_cases (cfg : Config) (addr : Byte) (p : Nat) (x : ScanWork) :
    (scanPass cfg addr p x = (false, x) ∧
      (x.ring.count < headerSize ∨ (headerSize ≤ x.ring.count ∧
        headerValid cfg addr x.ring.q = true ∧ x.ring.count < frameSize x.ring.q))) ∨
    (scanPass cfg addr p x = (true, x.discardOne) ∧ headerSize ≤ x.ring.count) ∨
    (scanPass cfg addr p x = (true, x.commit cfg p) ∧ headerSize ≤ x.ring.count) := by
  unfold scanPass
  simp only [RingBuf.q_length]
  split_ifs with h1 h2 h3 h4
  · exact .inl ⟨rfl, .inl h1⟩
  · exact .inr (.inl ⟨rfl, by omega⟩)
  · exact .inl ⟨rfl, .inr ⟨by omega, by simpa using h2, h3⟩⟩
  · exact .inr (.inr ⟨rfl, by omega⟩)
  · exact .inr (.inl ⟨rfl, by omega⟩)

@[simp] theorem discardOne_count (x : ScanWork) : x.discardOne.ring.count = x.ring.count - 1 := by
  simp [ScanWork.discardOne]

@[simp] theorem discardOne_q (x : ScanWork) : x.discardOne.ring.q = x.ring.q.drop 1 := by
  simp [ScanWork.discardOne]

@[simp] theorem commit_count (cfg : Config) (p : Nat) (x : ScanWork) :
    (x.commit cfg p).ring.count = x.ring.count - frameSize x.ring.q := by
  simp [ScanWork.commit]

@[simp] theorem commit_q (cfg : Config) (p : Nat) (x : ScanWork) :
    (x.commit cfg p).ring.q = x.ring.q.drop (frameSize x.ring.q) := by
  simp [ScanWork.commit]

/-- A pass that goes on removes at least one byte (43_scanner.md R223). -/
theorem scanPass_shrinks {cfg : Config} {addr : Byte} {p : Nat} {x y : ScanWork}
    (h : scanPass cfg addr p x = (true, y)) : y.ring.count < x.ring.count := by
  rcases scanPass_cases cfg addr p x with ⟨e, -⟩ | ⟨e, hc⟩ | ⟨e, hc⟩ <;> rw [e] at h
  · cases h
  · cases h
    simp [headerSize] at *; omega
  · cases h
    simp [headerSize, frameSize, frameOverhead] at *; omega

/-! ### The loop -/

/-- The loop, once more after its first pass. -/
theorem scanLoop_succ (cfg : Config) (addr : Byte) (p fuel : Nat) (x : ScanWork) :
    scanLoop cfg addr p (fuel + 1) x =
      if x.ring.count = 0 then x
      else if (scanPass cfg addr p { x with ring := synchronize x.ring }).1 then
        scanLoop cfg addr p fuel (scanPass cfg addr p { x with ring := synchronize x.ring }).2
      else (scanPass cfg addr p { x with ring := synchronize x.ring }).2 := by
  rw [scanLoop]
  split_ifs with h1 h2
  · rfl
  · split
    · rename_i y hy; rw [hy]
    · rename_i y hy; rw [hy] at h2; cases h2
  · split
    · rename_i y hy; rw [hy] at h2; exact absurd rfl h2
    · rename_i y hy; rw [hy]

/-- A property that synchronizing, discarding and committing keep is kept by the loop. -/
theorem scanLoop_induction {cfg : Config} {addr : Byte} {p : Nat} (P : ScanWork → Prop)
    (hs : ∀ x : ScanWork, P x → P { x with ring := synchronize x.ring })
    (hd : ∀ x, P x → P x.discardOne) (hc : ∀ x, P x → P (x.commit cfg p)) (fuel : Nat) (x : ScanWork)
    (hx : P x) : P (scanLoop cfg addr p fuel x) := by
  induction fuel generalizing x with
  | zero => exact hx
  | succ fuel ih =>
    rw [scanLoop_succ]
    split_ifs with h1 h2
    · exact hx
    · apply ih
      rcases scanPass_cases cfg addr p { x with ring := synchronize x.ring } with ⟨e, -⟩ | ⟨e, -⟩ | ⟨e, -⟩ <;>
        rw [e]
      · exact hs x hx
      · exact hd _ (hs x hx)
      · exact hc _ (hs x hx)
    · rcases scanPass_cases cfg addr p { x with ring := synchronize x.ring } with ⟨e, -⟩ | ⟨e, -⟩ | ⟨e, -⟩ <;>
        rw [e]
      · exact hs x hx
      · exact hd _ (hs x hx)
      · exact hc _ (hs x hx)

/-- A whole scan of a buffer: the ring keeps its ranges and its capacity, and the array is the old one
after some received entries. -/
theorem scanBuffer_spec (cfg : Config) (addr : Byte) (p m : Nat) {r : RingBuf} (arr : List Entry)
    (h : r.Wf m) :
    (scanBuffer cfg addr p r arr).ring.Wf m ∧ (scanBuffer cfg addr p r arr).ring.cap = r.cap ∧
      Commits cfg p arr (scanBuffer cfg addr p r arr).array := by
  refine scanLoop_induction
    (fun x => x.ring.Wf m ∧ x.ring.cap = r.cap ∧ Commits cfg p arr x.array) ?_ ?_ ?_ _ _
    ⟨h, rfl, Commits.refl _ _ _⟩
  · rintro x ⟨h1, h2, h3⟩
    exact ⟨h1.dropFront _, by simpa [synchronize] using h2, h3⟩
  · rintro x ⟨h1, h2, h3⟩
    exact ⟨h1.dropFront _, by simpa [ScanWork.discardOne] using h2, h3⟩
  · rintro x ⟨h1, h2, h3⟩
    exact ⟨h1.dropFront _, by simpa [ScanWork.commit] using h2, h3.trans ⟨_, rfl⟩⟩

/-- The array part of `scanBuffer_spec`, of any ring. -/
theorem scanBuffer_commits (cfg : Config) (addr : Byte) (p : Nat) (r : RingBuf) (arr : List Entry) :
    Commits cfg p arr (scanBuffer cfg addr p r arr).array := by
  refine scanLoop_induction (fun x => Commits cfg p arr x.array) ?_ ?_ ?_ _ _ (Commits.refl _ _ _)
  · exact fun x h => h
  · exact fun x h => h
  · exact fun x h => h.trans ⟨_, rfl⟩

/-- The capacity is kept, of any ring. -/
theorem scanBuffer_cap (cfg : Config) (addr : Byte) (p : Nat) (r : RingBuf) (arr : List Entry) :
    (scanBuffer cfg addr p r arr).ring.cap = r.cap := by
  refine scanLoop_induction (fun x => x.ring.cap = r.cap) ?_ ?_ ?_ _ _ rfl
  · exact fun x h => by simpa [synchronize] using h
  · exact fun x h => by simpa [ScanWork.discardOne] using h
  · exact fun x h => by simpa [ScanWork.commit] using h

/-- Fuel above the byte count changes nothing. -/
theorem scanLoop_fuel (cfg : Config) (addr : Byte) (p : Nat) {n m : Nat} {x : ScanWork}
    (hn : x.ring.count < n) (hm : x.ring.count < m) :
    scanLoop cfg addr p n x = scanLoop cfg addr p m x := by
  induction n generalizing m x with
  | zero => omega
  | succ n ih =>
    obtain ⟨m, rfl⟩ : ∃ k, m = k + 1 := ⟨m - 1, by omega⟩
    rw [scanLoop_succ, scanLoop_succ]
    split_ifs with h1 h2
    · rfl
    · have hlt := scanPass_shrinks (cfg := cfg) (addr := addr) (p := p)
        (x := { x with ring := synchronize x.ring })
        (y := (scanPass cfg addr p { x with ring := synchronize x.ring }).2) (by rw [← h2])
      have hle := synchronize_count_le x.ring
      exact ih (by simp only at hlt; omega) (by simp only at hlt; omega)
    · rfl

/-- The capacity is kept by the drain, of any ring. -/
theorem drain_cap (l : List Byte) (r : RingBuf) : (drain r l).1.cap = r.cap := by
  induction l generalizing r with
  | nil => rfl
  | cons b rest ih =>
    rw [drain]
    split_ifs
    · rw [ih, RingBuf.push_cap]
    · rfl

end Sys2Proof.Machine
end

