-- ==== Sys2Proof/Laws/Effect.lean ====
section
/-!
SUPPORT. Everything a command can do, said once: it faults, or it answers after the effect its rule
gives it. Statements about all commands are case analyses of `exec_cases`.
-/

namespace Sys2Proof.Machine

/-- The state a command that passes its checks leads to, before its response. -/
def Effect (i : Instr) (s t : State) : Prop :=
  match i with
  | .init addr => t = s.setAddr addr
  | .portOpen p c =>
    p.toNat < s.cfg.nports ∧ (1 ≤ c.toNat ∧ c.toNat ≤ s.cfg.rbMaxCap) ∧
      t = (s.setChan p.toNat
        { s.chan p.toNat with isOpen := true, ring := RingBuf.fresh s.draws c.toNat }).nextDraw
  | .portClose p =>
    s.PortOk p ∧ t = s.setChan p.toNat
      { s.chan p.toNat with isOpen := false, ring := (s.chan p.toNat).ring.closed }
  | .rbPush p b =>
    s.PortOk p ∧ (t = s ∨ ((s.chan p.toNat).ring.count ≠ (s.chan p.toNat).ring.cap ∧
      t = s.setRing p.toNat ((s.chan p.toNat).ring.push b)))
  | .rbPop p =>
    s.PortOk p ∧ (s.chan p.toNat).ring.count ≠ 0 ∧
      t = s.setRing p.toNat (s.chan p.toNat).ring.dropOne
  | .crcInit => t = s.setCrcAcc 0
  | .crcByte b => t = s.setCrcAcc (crcStep s.crcAcc b)
  | .scan p =>
    s.PortOk p ∧ s.addrValid = true ∧
      t = (s.setChan p.toNat { s.chan p.toNat with
        ring := (scanBuffer s.cfg s.localAddr p.toNat
          (drain (s.chan p.toNat).ring (s.chan p.toNat).src).1 s.array).ring
        src := (drain (s.chan p.toNat).ring (s.chan p.toNat).src).2 }).setArray
        (scanBuffer s.cfg s.localAddr p.toNat
          (drain (s.chan p.toNat).ring (s.chan p.toNat).src).1 s.array).array
  | .rdArray a => a.toNat < s.cfg.arraySize ∧ t = s.setEntry a.toNat (s.entry a.toNat).acknowledged
  | .limit a p =>
    s.PortOk p ∧ (t = s ∨ t = s.setEntry a.toNat ((s.entry a.toNat).ownedBy p.toNat))
  | .queue a v =>
    t = s ∨ (s.stage.length + 4 ≤ stageCap s.cfg ∧ t = s.setStage (s.stage ++ entryBytes a v))
  | .clearPkt => t = s.setStage []
  | .send p d =>
    s.PortOk p ∧ s.addrValid = true ∧
      t = (s.setChan p.toNat
        ((s.chan p.toNat).emit (frame s.localAddr d s.stage))).setStage []
  | .nop | .rdFault | .rbPeek _ _ | .rbSize _ | .rbEmpty _ | .rbFull _ | .msbS _ | .lsbS _ | .msbU _
  | .lsbU _ | .joinS _ _ | .joinU _ _ | .crcRead | .rdFlag _ => t = s

/-- The response of a command that does not fault: `OK`, or `E_STAGE_FULL` with result 0. -/
def Answers (st : Status) (v : Half) : Prop := st = .ok ∨ (st = .stageFull ∧ v = 0)

/-- A guarded command faults or does what it does when the check passes. -/
theorem guarded_cases (check : Option FaultCode) (s : State) (k : Answer) :
    (∃ f, guarded check s k = .next (s.faulted f)) ∨ (check = none ∧ guarded check s k = k) := by
  cases check with
  | none => exact .inr ⟨rfl, rfl⟩
  | some f => exact .inl ⟨f, guarded_some f s k⟩

theorem or_none {a b : Option FaultCode} (h : a.or b = none) : a = none ∧ b = none := by
  cases a <;> simp_all

theorem faultUnless_none {c : Bool} {f : FaultCode} (h : faultUnless c f = none) : c = true := by
  cases c <;> simp_all

theorem portOk_of_none {s : State} {p : Byte} (h : s.portFault (chanNo p) = none) : s.PortOk p :=
  (State.portFault_eq_none_iff s p.toNat).mp h

/-- What `exec` can answer. -/
theorem exec_cases (i : Instr) (s : State) :
    (∃ f, exec i s = .next (s.faulted f)) ∨
      ∃ t st v, exec i s = .next (t.respond st v) ∧ Effect i s t ∧ Answers st v := by
  cases i with
  | nop => exact .inr ⟨s, _, _, rfl, rfl, .inl rfl⟩
  | init addr => exact .inr ⟨_, _, _, rfl, rfl, .inl rfl⟩
  | portOpen p c =>
    rcases guarded_cases (openFault (chanNo p) (u16 c) s) s _ with h | ⟨hn, h⟩
    · exact .inl h
    · obtain ⟨h1, h3⟩ := or_none hn
      obtain ⟨h1, h2⟩ := or_none h1
      have hp := of_decide_eq_true (faultUnless_none h1)
      have hc := Bool.and_eq_true_iff.mp (faultUnless_none h3)
      exact .inr ⟨_, _, _, h,
        ⟨hp, ⟨of_decide_eq_true hc.1, of_decide_eq_true hc.2⟩, rfl⟩, .inl rfl⟩
  | portClose p =>
    rcases guarded_cases (s.portFault (chanNo p)) s _ with h | ⟨hn, h⟩
    · exact .inl h
    · exact .inr ⟨_, _, _, h, ⟨portOk_of_none hn, rfl⟩, .inl rfl⟩
  | rdFault => exact .inr ⟨s, _, _, rfl, rfl, .inl rfl⟩
  | rbPush p b =>
    rcases guarded_cases (s.portFault (chanNo p)) s _ with h | ⟨hn, h⟩
    · exact .inl h
    · by_cases hc : (s.chan p.toNat).ring.count = (s.chan p.toNat).ring.cap
      · exact .inr ⟨s, _, _, h.trans (if_pos hc), ⟨portOk_of_none hn, .inl rfl⟩, .inl rfl⟩
      · exact .inr ⟨_, _, _, h.trans (if_neg hc), ⟨portOk_of_none hn, .inr ⟨hc, rfl⟩⟩, .inl rfl⟩
  | rbPop p =>
    rcases guarded_cases ((s.portFault (chanNo p)).or
      (faultUnless ((s.chan (chanNo p)).ring.count != 0) .rbEmpty)) s _ with h | ⟨hn, h⟩
    · exact .inl h
    · obtain ⟨h1, h2⟩ := or_none hn
      have hc := faultUnless_none h2
      exact .inr ⟨_, _, _, h, ⟨portOk_of_none h1, by simpa [chanNo] using hc, rfl⟩, .inl rfl⟩
  | rbPeek p a =>
    rcases guarded_cases ((s.portFault (chanNo p)).or
      (faultUnless (u16 a < (s.chan (chanNo p)).ring.count) .peekRange)) s _ with h | ⟨hn, h⟩
    · exact .inl h
    · exact .inr ⟨s, _, _, h, rfl, .inl rfl⟩
  | rbSize p =>
    rcases guarded_cases (s.portFault (chanNo p)) s _ with h | ⟨hn, h⟩
    · exact .inl h
    · exact .inr ⟨s, _, _, h, rfl, .inl rfl⟩
  | rbEmpty p =>
    rcases guarded_cases (s.portFault (chanNo p)) s _ with h | ⟨hn, h⟩
    · exact .inl h
    · exact .inr ⟨s, _, _, h, rfl, .inl rfl⟩
  | rbFull p =>
    rcases guarded_cases (s.portFault (chanNo p)) s _ with h | ⟨hn, h⟩
    · exact .inl h
    · exact .inr ⟨s, _, _, h, rfl, .inl rfl⟩
  | msbS v => exact .inr ⟨s, _, _, rfl, rfl, .inl rfl⟩
  | lsbS v => exact .inr ⟨s, _, _, rfl, rfl, .inl rfl⟩
  | msbU v => exact .inr ⟨s, _, _, rfl, rfl, .inl rfl⟩
  | lsbU v => exact .inr ⟨s, _, _, rfl, rfl, .inl rfl⟩
  | joinS m l => exact .inr ⟨s, _, _, rfl, rfl, .inl rfl⟩
  | joinU m l => exact .inr ⟨s, _, _, rfl, rfl, .inl rfl⟩
  | crcInit => exact .inr ⟨_, _, _, rfl, rfl, .inl rfl⟩
  | crcByte b => exact .inr ⟨_, _, _, rfl, rfl, .inl rfl⟩
  | crcRead => exact .inr ⟨s, _, _, rfl, rfl, .inl rfl⟩
  | scan p =>
    rcases guarded_cases ((s.portFault (chanNo p)).or s.addrFault) s _ with h | ⟨hn, h⟩
    · exact .inl h
    · obtain ⟨h1, h2⟩ := or_none hn
      exact .inr ⟨_, _, _, h, ⟨portOk_of_none h1, faultUnless_none h2, rfl⟩, .inl rfl⟩
  | rdArray a =>
    rcases guarded_cases (indexFault (u16 a) s) s _ with h | ⟨hn, h⟩
    · exact .inl h
    · exact .inr ⟨_, _, _, h, ⟨of_decide_eq_true (faultUnless_none hn), rfl⟩, .inl rfl⟩
  | rdFlag a =>
    rcases guarded_cases (indexFault (u16 a) s) s _ with h | ⟨hn, h⟩
    · exact .inl h
    · exact .inr ⟨s, _, _, h, rfl, .inl rfl⟩
  | limit a p =>
    rcases guarded_cases (s.portFault (chanNo p)) s _ with h | ⟨hn, h⟩
    · exact .inl h
    · by_cases hc : u16 a < s.cfg.arraySize
      · exact .inr ⟨_, _, _, h.trans (if_pos hc), ⟨portOk_of_none hn, .inr rfl⟩, .inl rfl⟩
      · exact .inr ⟨s, _, _, h.trans (if_neg hc), ⟨portOk_of_none hn, .inl rfl⟩, .inl rfl⟩
  | queue a v =>
    by_cases hc : s.stage.length + entrySize > stageCap s.cfg
    · exact .inr ⟨s, _, _, if_pos hc, .inl rfl, .inr ⟨rfl, rfl⟩⟩
    · exact .inr ⟨_, _, _, if_neg hc, .inr ⟨Nat.not_lt.mp hc, rfl⟩, .inl rfl⟩
  | clearPkt => exact .inr ⟨_, _, _, rfl, rfl, .inl rfl⟩
  | send p d =>
    rcases guarded_cases ((s.portFault (chanNo p)).or s.addrFault) s _ with h | ⟨hn, h⟩
    · exact .inl h
    · obtain ⟨h1, h2⟩ := or_none hn
      exact .inr ⟨_, _, _, h, ⟨portOk_of_none h1, faultUnless_none h2, rfl⟩, .inl rfl⟩

/-- What the next state of a command can be. -/
theorem exec_next {i : Instr} {s u : State} (h : exec i s = .next u) :
    (∃ f, u = s.faulted f) ∨ ∃ t st v, u = t.respond st v ∧ Effect i s t ∧ Answers st v := by
  rcases exec_cases i s with ⟨f, e⟩ | ⟨t, st, v, e, h2, h3⟩ <;> rw [e] at h <;>
    have h := (Host.Outcome.next.inj h).symm
  · exact .inl ⟨f, h⟩
  · exact .inr ⟨t, st, v, h, h2, h3⟩

/-- What a step can be: nothing pending, a refused word, a command, an action of the environment, or
reset. -/
theorem step_cases {s u : State} (h : step s = .next u) :
    (s.pending = [] ∧ u = s) ∨ ∃ rest, s.pending.tail = rest ∧
      ((∃ w r, s.pending.head? = some (.command w) ∧ decode w = .error r ∧
          u = State.faulted { s with pending := rest } (rejectFault r)) ∨
        (∃ w i, s.pending.head? = some (.command w) ∧ decode w = .ok i ∧
          exec i { s with pending := rest } = .next u) ∨
        (∃ p l, s.pending.head? = some (.arrive p l) ∧
          u = State.arrive { s with pending := rest } p l) ∨
        (∃ p n, s.pending.head? = some (.take p n) ∧
          u = State.take { s with pending := rest } p n) ∨
        (s.pending.head? = some .reset ∧ u = State.resetEvent { s with pending := rest })) := by
  unfold step at h
  split at h
  · rename_i e
    exact .inl ⟨e, (Host.Outcome.next.inj h).symm⟩
  · rename_i i rest e
    refine .inr ⟨rest, by rw [e]; rfl, ?_⟩
    rw [e]
    cases i with
    | command w =>
      simp only [runInput, runWord] at h
      split at h
      · rename_i j hj
        exact .inr (.inl ⟨w, j, rfl, hj, h⟩)
      · rename_i r hr
        refine .inl ⟨w, r, rfl, hr, ?_⟩
        rw [← State.raiseFault_eq]
        exact (Host.Outcome.next.inj h).symm
    | arrive p l => exact .inr (.inr (.inl ⟨p, l, rfl, (Host.Outcome.next.inj h).symm⟩))
    | take p n => exact .inr (.inr (.inr (.inl ⟨p, n, rfl, (Host.Outcome.next.inj h).symm⟩)))
    | reset => exact .inr (.inr (.inr (.inr ⟨rfl, (Host.Outcome.next.inj h).symm⟩)))

end Sys2Proof.Machine
end

