-- ==== Sys2Proof/Laws/PerInstr.lean ====
section
/-!
SUPPORT. One statement per command: its word matches, under the mask of its row of the opcode map
(30_encoding.md R105), the row with its mnemonic.
-/

namespace Sys2Proof

/-- The mnemonic of a command, as 30_encoding.md R105 spells it. -/
def mnemonicOf : Instr → String
  | .nop => "NOP"
  | .init _ => "INIT"
  | .portOpen _ _ => "PORT_OPEN"
  | .portClose _ => "PORT_CLOSE"
  | .rdFault => "RD_FAULT"
  | .rbPush _ _ => "RB_PUSH"
  | .rbPop _ => "RB_POP"
  | .rbPeek _ _ => "RB_PEEK"
  | .rbSize _ => "RB_SIZE"
  | .rbEmpty _ => "RB_EMPTY"
  | .rbFull _ => "RB_FULL"
  | .msbS _ => "MSB_S"
  | .lsbS _ => "LSB_S"
  | .msbU _ => "MSB_U"
  | .lsbU _ => "LSB_U"
  | .joinS _ _ => "JOIN_S"
  | .joinU _ _ => "JOIN_U"
  | .crcInit => "CRC_INIT"
  | .crcByte _ => "CRC_BYTE"
  | .crcRead => "CRC_READ"
  | .scan _ => "SCAN"
  | .rdArray _ => "RD_ARRAY"
  | .rdFlag _ => "RD_FLAG"
  | .limit _ _ => "LIMIT"
  | .queue _ _ => "QUEUE"
  | .clearPkt => "CLEAR_PKT"
  | .send _ _ => "SEND"

/-- Masking a word masks its fields. -/
theorem cmdWord_and (o p o' p' : Byte) (a b a' b' : Half) :
    cmdWord o p a b &&& cmdWord o' p' a' b' = cmdWord (o &&& o') (p &&& p') (a &&& a') (b &&& b') := by
  ext i hi
  simp [cmdWord]
  grind

/-- A byte operand leaves the high byte of its field zero. -/
theorem byteField_and_high (b : Byte) : byteField b &&& 0xFF00#16 = 0#16 := by
  ext i hi
  have h : (0xFF00#16).getLsbD i = decide (8 ≤ i ∧ i < 16) := by
    revert i
    decide
  simp [byteField] at h ⊢
  grind

/-- A word built from fields matches a row, from its fields. -/
theorem row_matches {r : OpRow} {o p o' p' : Byte} {a b a' b' : Half}
    (hm : r.mask = cmdWord o' p' a' b')
    (h : cmdWord (o &&& o') (p &&& p') (a &&& a') (b &&& b') = r.pat) :
    cmdWord o p a b &&& r.mask = r.pat := by
  rw [hm, cmdWord_and, h]

end Sys2Proof

/-- The command's word matches the row of the opcode map with the command's mnemonic. -/
def Sys2Proof.Laws.MapsToItsRow.Statement (i : Sys2Proof.Instr) : Prop :=
  ∃ r ∈ Sys2Proof.opRows, r.mnemonic = Sys2Proof.mnemonicOf i ∧
    Sys2Proof.encode i &&& r.mask = r.pat

namespace Sys2Proof.Laws.MapsToItsRow

open Sys2Proof

theorem nop : Statement (.nop) :=
  ⟨opRows[0], by decide, rfl, row_matches (r := opRows[0]) (o' := 0xFF) (p' := 0xFF)
    (a' := 0xFFFF) (b' := 0xFFFF) (by decide) (by simp; decide)⟩

theorem init (addr : Byte) : Statement (.init addr) :=
  ⟨opRows[1], by decide, rfl, row_matches (r := opRows[1]) (o' := 0xFF) (p' := 0xFF)
    (a' := 0xFF00) (b' := 0xFFFF) (by decide) (by simp [byteField_and_high]; decide)⟩

theorem portOpen (p : Byte) (capacity : Half) : Statement (.portOpen p capacity) :=
  ⟨opRows[2], by decide, rfl, row_matches (r := opRows[2]) (o' := 0xFF) (p' := 0x00)
    (a' := 0x0000) (b' := 0xFFFF) (by decide) (by simp; decide)⟩

theorem portClose (p : Byte) : Statement (.portClose p) :=
  ⟨opRows[3], by decide, rfl, row_matches (r := opRows[3]) (o' := 0xFF) (p' := 0x00)
    (a' := 0xFFFF) (b' := 0xFFFF) (by decide) (by simp; decide)⟩

theorem rdFault : Statement (.rdFault) :=
  ⟨opRows[4], by decide, rfl, row_matches (r := opRows[4]) (o' := 0xFF) (p' := 0xFF)
    (a' := 0xFFFF) (b' := 0xFFFF) (by decide) (by simp; decide)⟩

theorem rbPush (p : Byte) (byte : Byte) : Statement (.rbPush p byte) :=
  ⟨opRows[5], by decide, rfl, row_matches (r := opRows[5]) (o' := 0xFF) (p' := 0x00)
    (a' := 0xFF00) (b' := 0xFFFF) (by decide) (by simp [byteField_and_high]; decide)⟩

theorem rbPop (p : Byte) : Statement (.rbPop p) :=
  ⟨opRows[6], by decide, rfl, row_matches (r := opRows[6]) (o' := 0xFF) (p' := 0x00)
    (a' := 0xFFFF) (b' := 0xFFFF) (by decide) (by simp; decide)⟩

theorem rbPeek (p : Byte) (index : Half) : Statement (.rbPeek p index) :=
  ⟨opRows[7], by decide, rfl, row_matches (r := opRows[7]) (o' := 0xFF) (p' := 0x00)
    (a' := 0x0000) (b' := 0xFFFF) (by decide) (by simp; decide)⟩

theorem rbSize (p : Byte) : Statement (.rbSize p) :=
  ⟨opRows[8], by decide, rfl, row_matches (r := opRows[8]) (o' := 0xFF) (p' := 0x00)
    (a' := 0xFFFF) (b' := 0xFFFF) (by decide) (by simp; decide)⟩

theorem rbEmpty (p : Byte) : Statement (.rbEmpty p) :=
  ⟨opRows[9], by decide, rfl, row_matches (r := opRows[9]) (o' := 0xFF) (p' := 0x00)
    (a' := 0xFFFF) (b' := 0xFFFF) (by decide) (by simp; decide)⟩

theorem rbFull (p : Byte) : Statement (.rbFull p) :=
  ⟨opRows[10], by decide, rfl, row_matches (r := opRows[10]) (o' := 0xFF) (p' := 0x00)
    (a' := 0xFFFF) (b' := 0xFFFF) (by decide) (by simp; decide)⟩

theorem msbS (value : Half) : Statement (.msbS value) :=
  ⟨opRows[11], by decide, rfl, row_matches (r := opRows[11]) (o' := 0xFF) (p' := 0xFF)
    (a' := 0x0000) (b' := 0xFFFF) (by decide) (by simp; decide)⟩

theorem lsbS (value : Half) : Statement (.lsbS value) :=
  ⟨opRows[12], by decide, rfl, row_matches (r := opRows[12]) (o' := 0xFF) (p' := 0xFF)
    (a' := 0x0000) (b' := 0xFFFF) (by decide) (by simp; decide)⟩

theorem msbU (value : Half) : Statement (.msbU value) :=
  ⟨opRows[13], by decide, rfl, row_matches (r := opRows[13]) (o' := 0xFF) (p' := 0xFF)
    (a' := 0x0000) (b' := 0xFFFF) (by decide) (by simp; decide)⟩

theorem lsbU (value : Half) : Statement (.lsbU value) :=
  ⟨opRows[14], by decide, rfl, row_matches (r := opRows[14]) (o' := 0xFF) (p' := 0xFF)
    (a' := 0x0000) (b' := 0xFFFF) (by decide) (by simp; decide)⟩

theorem joinS (m : Byte) (l : Byte) : Statement (.joinS m l) :=
  ⟨opRows[15], by decide, rfl, row_matches (r := opRows[15]) (o' := 0xFF) (p' := 0xFF)
    (a' := 0xFF00) (b' := 0xFF00) (by decide) (by simp [byteField_and_high]; decide)⟩

theorem joinU (m : Byte) (l : Byte) : Statement (.joinU m l) :=
  ⟨opRows[16], by decide, rfl, row_matches (r := opRows[16]) (o' := 0xFF) (p' := 0xFF)
    (a' := 0xFF00) (b' := 0xFF00) (by decide) (by simp [byteField_and_high]; decide)⟩

theorem crcInit : Statement (.crcInit) :=
  ⟨opRows[17], by decide, rfl, row_matches (r := opRows[17]) (o' := 0xFF) (p' := 0xFF)
    (a' := 0xFFFF) (b' := 0xFFFF) (by decide) (by simp; decide)⟩

theorem crcByte (byte : Byte) : Statement (.crcByte byte) :=
  ⟨opRows[18], by decide, rfl, row_matches (r := opRows[18]) (o' := 0xFF) (p' := 0xFF)
    (a' := 0xFF00) (b' := 0xFFFF) (by decide) (by simp [byteField_and_high]; decide)⟩

theorem crcRead : Statement (.crcRead) :=
  ⟨opRows[19], by decide, rfl, row_matches (r := opRows[19]) (o' := 0xFF) (p' := 0xFF)
    (a' := 0xFFFF) (b' := 0xFFFF) (by decide) (by simp; decide)⟩

theorem scan (p : Byte) : Statement (.scan p) :=
  ⟨opRows[20], by decide, rfl, row_matches (r := opRows[20]) (o' := 0xFF) (p' := 0x00)
    (a' := 0xFFFF) (b' := 0xFFFF) (by decide) (by simp; decide)⟩

theorem rdArray (index : Half) : Statement (.rdArray index) :=
  ⟨opRows[21], by decide, rfl, row_matches (r := opRows[21]) (o' := 0xFF) (p' := 0xFF)
    (a' := 0x0000) (b' := 0xFFFF) (by decide) (by simp; decide)⟩

theorem rdFlag (index : Half) : Statement (.rdFlag index) :=
  ⟨opRows[22], by decide, rfl, row_matches (r := opRows[22]) (o' := 0xFF) (p' := 0xFF)
    (a' := 0x0000) (b' := 0xFFFF) (by decide) (by simp; decide)⟩

theorem limit (index : Half) (p : Byte) : Statement (.limit index p) :=
  ⟨opRows[23], by decide, rfl, row_matches (r := opRows[23]) (o' := 0xFF) (p' := 0x00)
    (a' := 0x0000) (b' := 0xFFFF) (by decide) (by simp; decide)⟩

theorem queue (index : Half) (value : Half) : Statement (.queue index value) :=
  ⟨opRows[24], by decide, rfl, row_matches (r := opRows[24]) (o' := 0xFF) (p' := 0xFF)
    (a' := 0x0000) (b' := 0x0000) (by decide) (by simp; decide)⟩

theorem clearPkt : Statement (.clearPkt) :=
  ⟨opRows[25], by decide, rfl, row_matches (r := opRows[25]) (o' := 0xFF) (p' := 0xFF)
    (a' := 0xFFFF) (b' := 0xFFFF) (by decide) (by simp; decide)⟩

theorem send (p : Byte) (dest : Byte) : Statement (.send p dest) :=
  ⟨opRows[26], by decide, rfl, row_matches (r := opRows[26]) (o' := 0xFF) (p' := 0x00)
    (a' := 0xFF00) (b' := 0xFFFF) (by decide) (by simp [byteField_and_high]; decide)⟩

end Sys2Proof.Laws.MapsToItsRow
end

