-- ==== Sys2Proof/Tests/Slice0.lean ====
section
/-!
SUPPORT. Tests. Expected results come from 95_test_vectors.md (the vector's name is in each comment)
or from the worked example of the rule named; the witnesses at the end show, for each statement with
hypotheses, a state and operands that meet them.
-/

namespace Sys2Proof.Tests

open Sys2Proof Sys2Proof.Machine

/-! ## Small states -/

/-- An open channel with this capacity, content and source. -/
def port (cap : Nat) (q src : List Byte) : Channel where
  isOpen := true
  ring := { cap := cap, slot := q ++ List.replicate (cap - q.length) 0, head := 0, count := q.length }
  src := src
  snk := []

/-- The block after `INIT 0x01`, with channel 0 open as given and channel 1 closed. -/
def block (cap : Nat) (q src : List Byte) : State :=
  { State.reset with
    addrValid := true, localAddr := 0x01, chans := [port cap q src, Channel.atReset] }

/-- The block with entry `i` replaced. -/
def withEntry (s : State) (i : Nat) (e : Entry) : State := { s with array := s.array.set i e }

/-- The block with one input pending. -/
def given (i : Input) (s : State) : State := { s with pending := [i] }

/-- The response of a command, status code and result, if it has one. -/
def answer : Answer → Option (Nat × Nat)
  | .next t => t.response.map fun r => (r.status.code.toNat, r.result.toNat)
  | _ => none

/-- What holds of the next state. -/
def after (a : Answer) (P : State → Bool) : Bool :=
  match a with
  | .next t => P t
  | _ => false

/-- The frame of vector S1: entry (5, 10) to address 01. -/
def frameS1 : List Byte := [0x06, 0x85, 0x02, 0x01, 0x04, 0x00, 0x05, 0x00, 0x0A, 0x4B]

/-! ## Decoding: the words of 95_test_vectors.md and of the opcode map (30_encoding.md R101, R105) -/

-- F1, F2, F5, F6, F8
theorem test_decode_control :
    decode 0x000000000000 = .ok .nop ∧ decode 0x010000010000 = .ok (.init 0x01) ∧
      decode 0x020001010000 = .ok (.portOpen 0 257) ∧ decode 0x030000000000 = .ok (.portClose 0) ∧
      decode 0x040000000000 = .ok .rdFault := by decide

-- B1, B5, B10, B14, B11, B3
theorem test_decode_ring :
    decode 0x100000420000 = .ok (.rbPush 0 0x42) ∧ decode 0x110000000000 = .ok (.rbPop 0) ∧
      decode 0x1200FFFF0000 = .ok (.rbPeek 0 0xFFFF) ∧ decode 0x130000000000 = .ok (.rbSize 0) ∧
      decode 0x140100000000 = .ok (.rbEmpty 1) ∧ decode 0x150000000000 = .ok (.rbFull 0) := by decide

-- X1, V5, V8, V13, V12
theorem test_decode_conversion :
    decode 0x2000B1E00000 = .ok (.msbS 0xB1E0) ∧ decode 0x21004E200000 = .ok (.lsbS 0x4E20) ∧
      decode 0x2200FFFF0000 = .ok (.msbU 0xFFFF) ∧ decode 0x230001000000 = .ok (.lsbU 0x0100) ∧
      decode 0x2400000100FF = .ok (.joinS 0x01 0xFF) ∧
      decode 0x250000120034 = .ok (.joinU 0x12 0x34) := by decide

-- K14, K16, K13
theorem test_decode_crc :
    decode 0x300000000000 = .ok .crcInit ∧ decode 0x3100005E0000 = .ok (.crcByte 0x5E) ∧
      decode 0x320000000000 = .ok .crcRead := by decide

-- F10, A2, A4, A9 (LIMIT 3, 1: index in A, channel in P)
theorem test_decode_array :
    decode 0x400200000000 = .ok (.scan 2) ∧ decode 0x500000100000 = .ok (.rdArray 16) ∧
      decode 0x5100FFFF0000 = .ok (.rdFlag 0xFFFF) ∧ decode 0x520100030000 = .ok (.limit 3 1) := by
  decide

-- Q1, Q2, Q6, P3 step 7
theorem test_decode_framer :
    decode 0x60000007FFF6 = .ok (.queue 7 0xFFF6) ∧ decode 0x610000000000 = .ok .clearPkt ∧
      decode 0x620000090000 = .ok (.send 0 0x09) ∧ decode 0x620100010000 = .ok (.send 1 0x01) := by
  decide

-- R75: OPC byte first; LIMIT 3, 1 of A9
theorem test_decode_bytes :
    wordBytes 0x520100030000 = [0x52, 0x01, 0x00, 0x03, 0x00, 0x00] ∧
      decodeBytes [0x52, 0x01, 0x00, 0x03, 0x00, 0x00] = .ok (.limit 3 1) ∧
      decodeBytes [0x52, 0x01, 0x00, 0x03, 0x00] = .error .badLength := by decide

-- V14, V15, V16, K18, Q9, Q10, Q11, F1, F2
theorem test_decode_rejects :
    decode 0x240000010100 = .error .reserved ∧ decode 0x20000000FFFF = .error .reserved ∧
      decode 0x200100000000 = .error .reserved ∧ decode 0x3100000100FF = .error .reserved ∧
      decode 0x620000010001 = .error .reserved ∧ decode 0x620001010000 = .error .reserved ∧
      decode 0x600100010002 = .error .reserved ∧ decode 0x050000000000 = .error .illegalOpcode ∧
      decode 0x010000010100 = .error .reserved := by decide

/-! ## WellFormed smoke tests: one ill-formed word for each check, refused -/

-- R106: a free opcode (F1)
theorem test_wf_opcode :
    opcodeLegal 0x050000000000 = false ∧ wordWellFormed 0x050000000000 = false ∧
      opcodeLegal 0xFF0000000000 = false := by decide

-- R103: P, all of A, A[15:8], all of B, B[15:8] (V16, F1 with A, F2, V15, V14), beside good words
theorem test_wf_reserved :
    wordWellFormed 0x200100000000 = false ∧ wordWellFormed 0x000000010000 = false ∧
      wordWellFormed 0x010000010100 = false ∧ wordWellFormed 0x010001010000 = false ∧
      wordWellFormed 0x20000000FFFF = false ∧ wordWellFormed 0x240000010100 = false ∧
      wordWellFormed 0x2400000100FF = true ∧ wordWellFormed 0x520100030000 = true := by decide

/-! ## Control -/

-- F1
theorem test_nop : answer (exec .nop State.reset) = some (0x00, 0) := by decide

-- F2; the other state is left alone
theorem test_init :
    after (exec (.init 0x01) State.reset) (fun t => t.addrValid && t.localAddr == 0x01 &&
      t.faultstat == 0) = true := by decide

-- F3, F5: opened, then capacity 0 and RB_MAXCAP + 1 refused
theorem test_port_open :
    after (exec (.portOpen 1 1) State.reset) (fun t =>
      (t.chan 1).isOpen && (t.chan 1).ring.cap == 1 && (t.chan 1).ring.count == 0) = true ∧
      answer (exec (.portOpen 0 0) State.reset) = some (0x87, 0) ∧
      answer (exec (.portOpen 0 257) State.reset) = some (0x87, 0) := by decide

-- F3, F4, F11: open before capacity, channel number first
theorem test_port_open_order :
    answer (exec (.portOpen 0 0) (block 4 [] [])) = some (0x85, 0) ∧
      answer (exec (.portOpen 2 8) State.reset) = some (0x83, 0) := by decide

-- F6
theorem test_port_close :
    after (exec (.portClose 0) (block 4 [0x07] [])) (fun t =>
      !(t.chan 0).isOpen && (t.chan 0).ring.count == 0) = true ∧
      answer (exec (.portClose 1) (block 4 [] [])) = some (0x84, 0) := by decide

-- F9 (after B6), F8
theorem test_rd_fault :
    after (exec (.rbPop 0) (block 8 [] [])) (fun t => answer (exec .rdFault t) == some (0, 0x0100)) =
        true ∧
      answer (exec .rdFault State.reset) = some (0, 0) := by decide

/-! ## Ring buffer -/

-- B1, B2
theorem test_rb_push :
    answer (exec (.rbPush 0 0x42) (block 2 [0x41] [])) = some (0, 1) ∧
      after (exec (.rbPush 0 0x42) (block 2 [0x41] [])) (fun t =>
        (t.chan 0).ring.q == [0x41, 0x42]) = true := by decide

theorem test_rb_push_full :
    exec (.rbPush 0 0x43) (block 2 [0x41, 0x42] []) =
      .next ((block 2 [0x41, 0x42] []).answered 0) := rfl

-- B5, B6
theorem test_rb_pop :
    answer (exec (.rbPop 0) (block 2 [0x41, 0x42] [])) = some (0, 0x41) ∧
      after (exec (.rbPop 0) (block 2 [0x41, 0x42] [])) (fun t => (t.chan 0).ring.q == [0x42]) =
        true := by decide

theorem test_rb_pop_empty :
    after (exec (.rbPop 0) (block 8 [] [])) (fun t => t.faultstat == 0x0100) = true := by decide

-- B13: capacity 3, head 1, the newest byte wrapped to slot 0; B10
theorem test_rb_peek :
    answer (exec (.rbPeek 0 2) { block 3 [] [] with chans :=
      [{ port 3 [] [] with ring := { cap := 3, slot := [0x04, 0x02, 0x03], head := 1, count := 3 } },
        Channel.atReset] }) = some (0, 0x04) ∧
      answer (exec (.rbPeek 0 0xFFFF) (block 8 [0x07] [])) = some (0x89, 0) := by decide

-- B4, B14
theorem test_rb_size :
    answer (exec (.rbSize 0) (block 2 [0x41, 0x42] [])) = some (0, 2) ∧
      answer (exec (.rbSize 1) (block 2 [] [])) = some (0x84, 0) := by decide

-- B11, B12
theorem test_rb_empty :
    answer (exec (.rbEmpty 0) (block 8 [] [])) = some (0, 1) ∧
      answer (exec (.rbEmpty 0) (block 1 [0x10] [])) = some (0, 0) := by decide

-- B3, B12 (capacity 1)
theorem test_rb_full :
    answer (exec (.rbFull 0) (block 2 [0x41, 0x42] [])) = some (0, 1) ∧
      answer (exec (.rbFull 0) (block 1 [0x10] [])) = some (0, 1) := by decide

/-! ## Conversion -/

-- V1, V3, X1
theorem test_msb_s :
    answer (exec (.msbS 0x7FFF) State.reset) = some (0, 0x7F) ∧
      answer (exec (.msbS 0xB1E0) State.reset) = some (0, 0xB1) := by decide

-- V4, X1
theorem test_lsb_s :
    answer (exec (.lsbS 0x8000) State.reset) = some (0, 0) ∧
      answer (exec (.lsbS 0xB1E0) State.reset) = some (0, 0xE0) := by decide

-- V7
theorem test_msb_u : answer (exec (.msbU 0x0100) State.reset) = some (0, 1) := by decide

-- V6
theorem test_lsb_u : answer (exec (.lsbU 0xFFFF) State.reset) = some (0, 0xFF) := by decide

-- V9, X1
theorem test_join_s :
    answer (exec (.joinS 0x80 0x00) State.reset) = some (0, 0x8000) ∧
      answer (exec (.joinS 0xB1 0xE0) State.reset) = some (0, 0xB1E0) := by decide

-- V12
theorem test_join_u : answer (exec (.joinU 0x12 0x34) State.reset) = some (0, 0x1234) := by decide

/-! ## CRC-8 -/

-- K6, K12
theorem test_crc8 :
    crc8 [0x00, 0x05, 0x00, 0x0A] = 0x4B ∧
      crc8 [0x31, 0x32, 0x33, 0x34, 0x35, 0x36, 0x37, 0x38, 0x39] = 0xA1 := by decide +kernel

-- K14
theorem test_crc_init :
    after (exec .crcInit { State.reset with crcAcc := 0x5E }) (fun t => t.crcAcc == 0) = true := by
  decide

-- K15, K16
theorem test_crc_byte :
    answer (exec (.crcByte 0x01) State.reset) = some (0, 0x5E) ∧
      answer (exec (.crcByte 0x5E) { State.reset with crcAcc := 0x5E }) = some (0, 0) := by decide

-- K19's read
theorem test_crc_read :
    answer (exec .crcRead { State.reset with crcAcc := 0x5E }) = some (0, 0x5E) := by decide

/-! ## Scanner -/

-- S1, S14 (index 16 skipped, index 6 written), S15 (owned by channel 1: counted, not written)
theorem test_scan_commits :
    after (exec (.scan 0) (block 64 [] frameS1)) (fun t =>
        t.entry 5 == { value := 10, dirty := true, owner := none } && (t.chan 0).ring.q == [] &&
          (t.chan 0).src == [] && t.response == some { status := .ok, result := 1 }) = true ∧
      after (exec (.scan 0) (block 64 [] [0x06, 0x85, 0x02, 0x01, 0x08, 0x00, 0x10, 0x00, 0x63, 0x00,
          0x06, 0xFF, 0xFE, 0x9F])) (fun t => t.entry 6 == { value := 0xFFFE, dirty := true, owner :=
            none } && t.array.length == 16) = true ∧
      after (exec (.scan 0) (withEntry (block 64 [] frameS1) 5 { Entry.atReset with owner := some 1 }))
        (fun t => (t.entry 5).value == 0 && !(t.entry 5).dirty &&
          t.response == some { status := .ok, result := 1 }) = true := by decide +kernel

-- S3, S9, S10, S12, S18's second half
theorem test_scan_refuses :
    after (exec (.scan 0) (block 64 [] (frameS1.set 3 0x02))) (fun t =>
        (t.chan 0).ring.q == [] && t.array == State.reset.array) = true ∧
      after (exec (.scan 0) { block 64 [] frameS1 with cfg := { Config.vectors with
        mxPacketSize := 9 } }) (fun t => t.array == State.reset.array) = true ∧
      after (exec (.scan 0) (block 64 [] [0x06, 0x85, 0x02, 0x01])) (fun t =>
        (t.chan 0).ring.q == [0x06, 0x85, 0x02, 0x01]) = true ∧
      after (exec (.scan 0) (block 64 [] (frameS1.take 9))) (fun t =>
        (t.chan 0).ring.q == frameS1.take 9) = true ∧
      after (exec (.scan 0) (block 12 [] (frameS1 ++ frameS1))) (fun t =>
        (t.chan 0).ring.q == [0x06, 0x85] && (t.chan 0).src == frameS1.drop 2) = true := by decide +kernel

-- R224, on S1
theorem test_fsm :
    let x := fsmRun Config.vectors 0x01 0 64 8
      { phase := .draining, q := [], src := frameS1, array := State.reset.array, frames := 0 }
    x.phase = .returned ∧ x.q = [] ∧ x.frames = 1 := by decide +kernel

/-! ## Shared array -/

-- A6, A2
theorem test_rd_array :
    after (exec (.rdArray 5) (withEntry State.reset 5 { value := 10, dirty := true, owner := none }))
        (fun t => t.response == some { status := .ok, result := 10 } && !(t.entry 5).dirty) = true ∧
      answer (exec (.rdArray 16) State.reset) = some (0x8A, 0) := by decide

-- A5, A4
theorem test_rd_flag :
    after (exec (.rdFlag 5) (withEntry State.reset 5 { value := 10, dirty := true, owner := none }))
        (fun t => t.response == some { status := .ok, result := 1 } && (t.entry 5).dirty) = true ∧
      answer (exec (.rdFlag 0xFFFF) State.reset) = some (0x8A, 0) := by decide

-- A7, A8
theorem test_limit :
    after (exec (.limit 15 0) (block 4 [] [])) (fun t => (t.entry 15).owner == some 0) = true ∧
      exec (.limit 16 0) (block 4 [] []) = .next ((block 4 [] []).answered 0) := by
  exact ⟨by decide, rfl⟩

-- A9, A10
theorem test_limit_faults :
    answer (exec (.limit 3 1) (block 4 [] [])) = some (0x84, 0) ∧
      answer (exec (.limit 3 2) (block 4 [] [])) = some (0x83, 0) := by decide

/-! ## Framer -/

-- Q1, Q5
theorem test_queue :
    after (exec (.queue 7 0xFFF6) State.reset) (fun t => t.stage == [0x00, 0x07, 0xFF, 0xF6]) =
        true ∧
      answer (exec (.queue 1 1) { State.reset with cfg := { Config.vectors with mxPacketSize := 3 } })
        = some (0x01, 0) := by decide

-- Q2
theorem test_clear_pkt :
    after (exec .clearPkt { State.reset with stage := [0x00, 0x07, 0xFF, 0xF6] })
      (fun t => t.stage == []) = true := by decide

-- Q7 (from address 01)
theorem test_send :
    after (exec (.send 0 0x01) { block 4 [] [] with localAddr := 0x02, stage := [0x00, 0x05, 0x00,
      0x0A] }) (fun t => (t.chan 0).snk == frameS1 && t.stage == []) = true := by decide +kernel

-- Q8
theorem test_send_not_init :
    after (exec (.send 0 0x01) { block 4 [] [] with addrValid := false, stage := [0, 5, 0, 0x0A] })
      (fun t => t.response == some { status := .fault .notInit, result := 0 } &&
        (t.chan 0).snk == [] && t.stage == [0, 5, 0, 0x0A]) = true := by decide

/-! ## The step and the fault checks -/

-- F1: an illegal opcode, a reserved bit
theorem test_step_refuses :
    after (step (given (.command 0x050000000000) State.reset)) (fun t => t.faultstat == 0x0002) =
        true ∧
      after (step (given (.command 0x0000000000FF) State.reset)) (fun t => t.faultstat == 0x0004) =
        true := by decide

-- F10: bad port, closed before not-init, reserved before closed
theorem test_step_order :
    answer (step (given (.command 0x400200000000) State.reset)) = some (0x83, 0) ∧
      answer (step (given (.command 0x400100000000) State.reset)) = some (0x84, 0) ∧
      answer (step (given (.command 0x110000000001) State.reset)) = some (0x82, 0) := by decide

-- R5: the environment appends to a source and takes from a sink; R351: reset leaves both
theorem test_environment :
    after (step (given (.arrive 0 [1, 2]) (block 4 [] [9]))) (fun t => (t.chan 0).src == [9, 1, 2]) =
        true ∧
      after (step (given .reset (block 4 [7] [9]))) (fun t =>
        (t.chan 0).src == [9] && !(t.chan 0).isOpen && !t.addrValid) = true := by decide

-- A word issued through the host's probe runs next
theorem test_fetch_word :
    answer (step (State.reset.withFetchWord 48 0x2000B1E00000)) = some (0, 0xB1) := by decide

/-! ## Assembler (R107, R108) -/

-- Q1, A9, K17, and a number out of range
theorem test_assemble_ops :
    assembleOps "QUEUE" [7, -10] = some [.queue 7 0xFFF6] ∧
      assembleOps "LIMIT" [3, 1] = some [.limit 3 1] ∧
      assembleOps "CRC_OF" [0, 5, 0, 10] =
        some [.crcInit, .crcByte 0, .crcByte 5, .crcByte 0, .crcByte 10] ∧
      assembleOps "INIT" [256] = none := by decide

theorem test_read_number :
    readNumber ['0', 'x', 'F', 'f'] = some 255 ∧ readNumber ['-', '1', '0'] = some (-10) ∧
      readNumber ['x'] = none := by decide

-- Q1, K17's first words, and assembly errors
theorem test_assemble_line :
    assembleLine "QUEUE 7, -10" = some [0x60000007FFF6] ∧
      assembleLine "CRC_OF 0x00, 0x05" = some [0x300000000000, 0x310000000000, 0x310000050000] ∧
      assembleLine "LIMIT 3, 256" = none ∧ assembleLine "NOPE" = none := by decide +kernel

/-! ## Witnesses: states and operands that meet the hypotheses of the statements -/

/-- Channel 0 open with the S1 frame's header, full, too small for the frame (R355). -/
def stalled : State := block 5 (frameS1.take 5) []

theorem witness_EncodeOfDecodeIsTheWord :
    ∃ (w : CmdWord) (i : Instr), decode w = .ok i := ⟨0x520100030000, .limit 3 1, by decide⟩

-- every range of R106 at both its ends: refused, and the opcodes beside it accepted as opcodes
theorem witness_FreeOpcodesAreIllegal :
    (∀ opc ∈ [0x05#8, 0x0F, 0x16, 0x1F, 0x26, 0x2F, 0x33, 0x3F, 0x41, 0x4F, 0x53, 0x5F, 0x63, 0xFF],
      step (given (.command (cmdWord opc 0 0 0)) State.reset) =
        .next (State.reset.faulted .illegalOpcode)) ∧
      ∀ opc ∈ [0x04#8, 0x10, 0x15, 0x20, 0x25, 0x30, 0x32, 0x40, 0x50, 0x52, 0x60, 0x62],
        opcodeLegal (cmdWord opc 0 0 0) = true := by
  constructor
  · intro opc h
    simp only [List.mem_cons, List.not_mem_nil, or_false] at h
    rcases h with h | h | h | h | h | h | h | h | h | h | h | h | h | h <;> subst h <;> rfl
  · decide

theorem witness_NonzeroReservedBitsFault :
    ∃ (s : State) (rest : List Input) (w : CmdWord) (r : OpRow), r ∈ opRows ∧
      w.extractLsb' 40 8 = r.pat.extractLsb' 40 8 ∧ w &&& r.mask ≠ r.pat ∧
        s.pending = .command w :: rest :=
  ⟨given (.command 0x240000010100) State.reset, [], 0x240000010100,
    { mnemonic := "JOIN_S", pat := 0x240000000000#48, mask := 0xFFFFFF00FF00#48 }, by decide, by decide,
    by decide, rfl⟩

theorem witness_CommandBytesGoMostSignificantFirst :
    (∃ (w : CmdWord) (i : Instr), decode w = .ok i) ∧ ∃ (w : CmdWord) (r : Reject), decode w = .error r :=
  ⟨⟨0x520100030000, .limit 3 1, by decide⟩, 0x0000000000FF, .reserved, by decide⟩

theorem witness_StepRunsTheDecodedCommand :
    ∃ (s : State) (rest : List Input) (w : CmdWord) (i : Instr),
      s.pending = .command w :: rest ∧ decode w = .ok i :=
  ⟨given (.command 0x520100030000) State.reset, [], _, .limit 3 1, rfl, by decide⟩

theorem witness_EnvironmentActsOnItsQueuesOnly :
    (∃ (s : State) (rest : List Input) (p : Nat) (l : List Byte), s.pending = .arrive p l :: rest) ∧
      (∃ (s : State) (rest : List Input) (p n : Nat), s.pending = .take p n :: rest) ∧
      (∃ s : State, s.pending = []) ∧
      ∃ (s : State) (rest : List Input), s.pending = .reset :: rest :=
  ⟨⟨given (.arrive 1 [6]) State.reset, [], 1, [6], rfl⟩,
    ⟨given (.take 0 2) State.reset, [], 0, 2, rfl⟩, ⟨State.reset, rfl⟩,
    ⟨given .reset State.reset, [], rfl⟩⟩

theorem witness_FaultChangesOnlyTheLatch :
    ∃ (i : Instr) (s t : State) (f : FaultCode) (v : Half), exec i s = .next t ∧
      t.response = some { status := .fault f, result := v } :=
  ⟨.scan 2, State.reset, _, .badPort, 0, rfl, rfl⟩

theorem witness_FaultChangesOnlyTheLatch_step :
    ∃ (s t : State) (rest : List Input) (w : CmdWord) (f : FaultCode) (v : Half),
      s.pending = .command w :: rest ∧ step s = .next t ∧
        t.response = some { status := .fault f, result := v } :=
  ⟨given (.command 0x240000010100) State.reset, _, [], _, .reserved, 0, rfl, rfl, rfl⟩

-- each code of R311 is the first failing check of some command in some state
theorem witness_FirstFailingCheckIsReported :
    opcodeLegal 0x050000000000 = false ∧
      (opcodeLegal 0x0000000000FF = true ∧ wordWellFormed 0x0000000000FF = false) ∧
      firstFault (.rbPop 2) (block 4 [] []) = some .badPort ∧
      firstFault (.scan 1) State.reset = some .portClosed ∧
      firstFault (.portOpen 0 0) (block 4 [] []) = some .portOpen ∧
      firstFault (.send 0 1) { block 4 [] [] with addrValid := false } = some .notInit ∧
      firstFault (.portOpen 1 257) (block 4 [] []) = some .badCapacity ∧
      firstFault (.rbPop 0) (block 4 [] []) = some .rbEmpty ∧
      firstFault (.rbPeek 0 1) (block 4 [7] []) = some .peekRange ∧
      firstFault (.rdArray 16) (block 4 [] []) = some .indexRange ∧
      wordWellFormed 0x500F00000000 = false ∧ wordWellFormed 0x5000000F0000 = true ∧
      firstFault (.rdArray 15) (block 4 [] []) = none := by decide

theorem witness_FaultBitsStayUntilReset :
    ∃ (s t : State) (n : Nat), step s = .next t ∧ s.pending.head? ≠ some .reset ∧
      s.faultstat.getLsbD n = true :=
  ⟨given (.command 0x010000010000) { State.reset with faultstat := 0x0400 }, _, 10, rfl, by decide,
    by decide⟩

theorem witness_FaultLatchDoesNotSteerCommands :
    ∃ (i : Instr) (s t : State), i ≠ .rdFault ∧ exec i s = .next t :=
  ⟨.rbPop 0, block 4 [7] [], _, by decide, rfl⟩

theorem witness_StepKeepsInvariant : ∃ s t : State, s.Inv ∧ step s = .next t :=
  ⟨given (.command 0x110000000000) (block 4 [7] []), _, by decide, rfl⟩

-- the ends of the ranges of R8
theorem witness_PowerOnMeetsInvariant :
    Config.Legal { arraySize := 1, mxPacketSize := 1, nports := 1, rbMaxCap := 1 } ∧
      Config.Legal { arraySize := 65536, mxPacketSize := 65535, nports := 255, rbMaxCap := 65535 } := by
  decide

theorem witness_ResetValues :
    ∃ (s : State) (rest : List Input), s.pending = .reset :: rest ∧ s.addrValid = true :=
  ⟨given .reset (block 4 [7] [9]), [], rfl, rfl⟩

theorem witness_CommandsWriteOnlyTheirElements :
    ∃ (i : Instr) (s t : State) (r : Response),
      exec i s = .next t ∧ t.response = some r ∧ r.faults = false ∧ Element.stage ∉ mayWrite i :=
  ⟨.rbPop 0, block 4 [7] [], _, _, rfl, rfl, rfl, by decide⟩

theorem witness_RepeatableCommandsChangeNothing :
    changesNothing (.rbPeek 0 0) = true ∧
      answer (exec (.rbPeek 0 0) (block 4 [7] [])) = some (0, 7) := by decide

theorem witness_DirtyFlagsClearOnlyOnReadOrReset :
    ∃ s t : State, step s = .next t ∧ (s.entry 5).dirty = true ∧ (t.entry 5).dirty = false :=
  ⟨given (.command 0x500000050000)
      (withEntry State.reset 5 { value := 10, dirty := true, owner := none }), _, rfl, by decide,
    by decide⟩

theorem witness_ValuesChangeOnlyByPermittedFrames :
    ∃ s t : State, step s = .next t ∧ (t.entry 5).value ≠ (s.entry 5).value := by
  refine ⟨given (.command 0x400000000000) (block 64 [] frameS1), _, rfl, ?_⟩
  decide +kernel

theorem witness_OwnersChangeOnlyByLimitOrReset :
    ∃ s t : State, step s = .next t ∧ (t.entry 15).owner ≠ (s.entry 15).owner :=
  ⟨given (.command 0x5200000F0000) (block 4 [] []), _, rfl, by decide⟩

theorem witness_ChannelsAreIndependent :
    ∃ (i : Instr) (s t : State) (q : Nat), channelOf i ≠ some q ∧ exec i s = .next t ∧
      q < s.chans.length :=
  ⟨.rbPop 0, block 4 [7] [], _, 1, by decide, rfl, by decide⟩

-- port 2 is the first that does not exist; capacities 0, 1, RB_MAXCAP and RB_MAXCAP + 1
theorem witness_PortOpenMakesAnEmptyBuffer :
    let s := block 4 [] []
    s.cfg.nports ≤ (2 : Byte).toNat ∧ ((0 : Byte).toNat < s.cfg.nports ∧ (s.chan 0).isOpen = true) ∧
      ((1 : Byte).toNat < s.cfg.nports ∧ (s.chan 1).isOpen = false) ∧ (0 : Half).toNat = 0 ∧
      s.cfg.rbMaxCap < (257 : Half).toNat ∧ 1 ≤ (1 : Half).toNat ∧
      (256 : Half).toNat ≤ s.cfg.rbMaxCap := by decide

-- the channel checks (PortChecks) and the open case (PortOk) of every command that needs its channel
-- open: PORT_CLOSE, RB_*, SCAN, LIMIT, SEND
theorem witness_PortCloseDiscardsTheBuffer :
    let s := block 4 [7] []
    s.cfg.nports ≤ (2 : Byte).toNat ∧ ((1 : Byte).toNat < s.cfg.nports ∧ (s.chan 1).isOpen = false) ∧
      s.PortOk 0 := by decide

theorem witness_RdFaultReturnsTheLatch :
    (0x07FE#16 : Half) &&& ~~~ 0x07FE#16 = 0 ∧
      ∃ s : State, s.faultstat &&& ~~~ 0x07FE#16 = 0 ∧ s.faultstat = 0x07FE :=
  ⟨by decide, { State.reset with faultstat := 0x07FE }, by decide, rfl⟩

theorem witness_RbPushEnqueuesOrDrops :
    ((block 2 [1, 2] []).PortOk 0 ∧
      ((block 2 [1, 2] []).chan 0).ring.count = ((block 2 [1, 2] []).chan 0).ring.cap) ∧
      (block 2 [1] []).PortOk 0 ∧
      ((block 2 [1] []).chan 0).ring.count ≠ ((block 2 [1] []).chan 0).ring.cap := by decide

theorem witness_RbPopTakesTheOldestByte :
    ((block 2 [] []).PortOk 0 ∧ ((block 2 [] []).chan 0).ring.count = 0) ∧
      (block 2 [1] []).Inv ∧ (block 2 [1] []).PortOk 0 ∧
      ((block 2 [1] []).chan 0).ring.count ≠ 0 := by decide

theorem witness_RbPeekReadsAPosition :
    (block 2 [1] []).Inv ∧ (block 2 [1] []).PortOk 0 ∧
      ((block 2 [1] []).chan 0).ring.count ≤ (1 : Half).toNat ∧
      (0 : Half).toNat < ((block 2 [1] []).chan 0).ring.count := by decide

theorem witness_RingQueriesReadTheCount :
    (block 2 [1, 2] []).Inv ∧ (block 2 [1, 2] []).PortOk 0 := by decide

theorem witness_RingCommandsActOnTheQueue :
    ∃ s : State, s.Inv ∧ s.PortOk 0 ∧ (s.chan 0).ring.q.length < (s.chan 0).ring.cap ∧
      (s.chan 0).ring.q = 7 :: [8] ∧ (s.chan 0).ring.q[(1 : Half).toNat]? = some 8 :=
  ⟨block 4 [7, 8] [], by decide, by decide, by decide, by decide, by decide⟩

-- two pushes and a pop on a buffer of capacity 1: the push wraps; and a full buffer of one byte
theorem witness_RingBufferLaws :
    ∃ (s : State) (rs : List Response) (t : State), s.Inv ∧ s.PortOk 0 ∧ (s.chan 0).ring.q = [] ∧
      runAll ([some 1, none, some 2].map (ringOp 0)) s = some (rs, t) ∧
      (∀ x ∈ [some 1, none, some 2].zip rs, accepted x.1 x.2 = true) ∧
      (0 : Half).toNat < (t.chan 0).ring.q.length ∧ [(9 : Byte)].length = (s.chan 0).ring.cap :=
  ⟨block 1 [] [], _, _, by decide, by decide, by decide, rfl, by decide, by decide, by decide⟩

-- heads 0 and 1 over the same content, and different buffers of a closed channel
theorem witness_HeadAndDeadSlotsAreUnobservable :
    ∃ s u : State, s.Inv ∧ u.Inv ∧ s.Agree u ∧ s ≠ u := by
  refine ⟨{ block 2 [7] [] with chans := [port 2 [7] [], Channel.atReset] },
    { block 2 [7] [] with chans :=
      [{ port 2 [7] [] with ring := { cap := 2, slot := [5, 7], head := 1, count := 1 } },
        { Channel.atReset with ring := { cap := 2, slot := [1, 2], head := 1, count := 0 } }] },
    by decide, by decide, ⟨rfl, rfl, fun _ => rfl, rfl, rfl, ?_, rfl, rfl, rfl, rfl⟩, by decide⟩
  intro p
  match p with
  | 0 => exact ⟨rfl, rfl, rfl, fun _ => ⟨rfl, by decide⟩⟩
  | 1 => exact ⟨rfl, rfl, rfl, fun h => by cases h⟩
  | _ + 2 => exact ⟨rfl, rfl, rfl, fun _ => ⟨rfl, rfl⟩⟩

theorem witness_PushedByteIsScannedBeforeTheSource :
    ∃ s : State, s.Inv ∧ s.PortOk 0 ∧ s.addrValid = true ∧
      (s.chan 0).ring.count < (s.chan 0).ring.cap :=
  ⟨block 64 [0x06] frameS1, by decide, by decide, rfl, by decide⟩

-- the full buffer of the first clause of RingBufferLaws
theorem witness_RingBufferLaws_full :
    (block 2 [1, 2] []).Inv ∧ (block 2 [1, 2] []).PortOk 0 ∧
      ((block 2 [1, 2] []).chan 0).ring.count = ((block 2 [1, 2] []).chan 0).ring.cap := by decide

theorem witness_CrcConsequences :
    [(1 : Byte)].length = [(2 : Byte)].length ∧ (7 : Nat) < 8 ∧ [(3 : Byte)][0]? = some 3 := by decide

theorem witness_ScanAndSendIgnoreTheAccumulator :
    ∃ s t u : State, exec (.scan 0) s = .next t ∧ exec (.send 0 9) s = .next u ∧ s.PortOk 0 ∧
      s.addrValid = true :=
  ⟨block 64 [] frameS1, _, _, rfl, rfl, by decide, rfl⟩

-- the hypotheses of ScanIsTheReassemblyMachine, ScanDrainsTheSourceOnce, ScanEndsInOneOfThreeShapes
theorem witness_Scan :
    (block 12 [] (frameS1 ++ frameS1)).Inv ∧ (block 12 [] (frameS1 ++ frameS1)).PortOk 0 ∧
      (block 12 [] (frameS1 ++ frameS1)).addrValid = true := by decide

-- the sender of Q7; the receiver gets three bytes of garbage and then the frame
theorem witness_SentFrameIsCommittedByTheReceiver :
    ∃ (a a' b : State) (es : List (Half × Half)) (garbage f : List Byte),
      a.Inv ∧ a.PortOk 0 ∧ a.addrValid = true ∧ a.stage = entriesBytes es ∧
      exec (.send 0 0x01) a = .next a' ∧ (a'.chan 0).snk = (a.chan 0).snk ++ f ∧
      b.Inv ∧ b.PortOk 0 ∧ b.addrValid = true ∧ b.localAddr = 0x01 ∧
      (b.chan 0).ring.q = [] ∧ (b.chan 0).src = garbage ++ f ∧ (∀ x ∈ garbage, x ≠ 0x06) ∧
      f.length ≤ b.cfg.mxPacketSize ∧ garbage.length + f.length ≤ (b.chan 0).ring.cap := by
  refine ⟨{ block 4 [] [] with localAddr := 0x02, stage := [0x00, 0x05, 0x00, 0x0A] }, _,
    block 13 [] ([1, 2, 3] ++ frameS1), [(5, 10)], [1, 2, 3], frameS1, by decide, by decide, rfl,
    by decide, rfl, ?_, by decide, by decide, rfl, rfl, by decide, rfl, by decide, by decide, by decide⟩
  decide +kernel

theorem witness_OversizedHeaderStallsTheChannel :
    stalled.Inv ∧ stalled.PortOk 0 ∧ stalled.addrValid = true ∧
      ValidHeader stalled.cfg stalled.localAddr (stalled.chan 0).ring.q ∧
      (stalled.chan 0).ring.q[4]? = some 4 ∧
      (stalled.chan 0).ring.count = (stalled.chan 0).ring.cap ∧
      (stalled.chan 0).ring.cap < (4 : Byte).toNat + 6 :=
  ⟨by decide, by decide, rfl, ⟨by decide, by decide, by decide, 4, by decide, by decide, by decide⟩,
    by decide, by decide, by decide⟩

-- a header with another destination, and a frame with its last data byte flipped
theorem witness_RejectedHeaderCostsOneByte :
    (∃ s : State, s.Inv ∧ s.PortOk 0 ∧ s.addrValid = true ∧ (s.chan 0).src = [] ∧
      (s.chan 0).ring.q[0]? = some 0x06 ∧ 5 ≤ (s.chan 0).ring.q.length ∧
      ¬ ValidHeader s.cfg s.localAddr (s.chan 0).ring.q) ∧
    ∃ (s : State) (len c : Byte), s.Inv ∧ s.PortOk 0 ∧ s.addrValid = true ∧ (s.chan 0).src = [] ∧
      (s.chan 0).ring.q[0]? = some 0x06 ∧ 5 ≤ (s.chan 0).ring.q.length ∧
      (s.chan 0).ring.q[4]? = some len ∧ (s.chan 0).ring.q[5 + len.toNat]? = some c ∧
      crc8 (((s.chan 0).ring.q.drop 5).take len.toNat) ≠ c := by
  refine ⟨⟨block 64 (frameS1.set 3 0x02) [], by decide, by decide, rfl, rfl, by decide, by decide,
    fun h => ?_⟩, block 64 (frameS1.set 8 0x0B) [], 4, 0x4B, by decide, by decide, rfl, rfl, by decide,
    by decide, by decide, by decide, by decide +kernel⟩
  exact absurd h.2.2.1 (by decide)

-- RdArrayReadsAndAcknowledges, RdFlagPeeksTheFlag, LimitSetsTheOwner: index 15 in range, 16 not
theorem witness_index_clauses :
    (State.reset.cfg.arraySize ≤ (16 : Half).toNat ∧ (15 : Half).toNat < State.reset.cfg.arraySize) ∧
      ((block 4 [] []).PortOk 0 ∧ (block 4 [] []).cfg.arraySize ≤ (16 : Half).toNat ∧
        (15 : Half).toNat < (block 4 [] []).cfg.arraySize) := by decide

-- STAGE_CAP 64: 60 bytes staged leave room for one entry, 64 for none
theorem witness_QueueStagesAnEntryOrRefuses :
    ((List.replicate 64 (0 : Byte)).length + 4 > min State.reset.cfg.mxPacketSize 255) ∧
      (List.replicate 60 (0 : Byte)).length + 4 ≤ min State.reset.cfg.mxPacketSize 255 := by decide

theorem witness_SendEmitsTheFrame :
    ((block 4 [] []).Inv ∧ (block 4 [] []).PortOk 0 ∧ (block 4 [] []).addrValid = true) ∧
      ∃ s : State, s.PortOk 0 ∧ s.addrValid = false :=
  ⟨by decide, { block 4 [] [] with addrValid := false }, by decide, rfl⟩

-- both sides of each end of the ranges of R107, one shape of operands each; CRC_OF in and out of range
theorem witness_AssemblerRangesAndOrder :
    (∀ n ∈ [0, 255], ByteRange n) ∧ (∀ n ∈ [-1, 256], ¬ ByteRange n) ∧
      (∀ n ∈ [0, 65535], HalfRange n) ∧ (∀ n ∈ [-1, 65536], ¬ HalfRange n) ∧
      (∀ n ∈ [-32768, 65535], SignedRange n) ∧ (∀ n ∈ [-32769, 65536], ¬ SignedRange n) ∧
      (-32768 ≤ (-32768 : Int) ∧ (-32768 : Int) ≤ 32767) ∧ ∃ n ∈ [(0 : Int), 256], ¬ ByteRange n := by
  decide

-- F5 (PORT_OPEN: channel, then capacity), B9, V12, A9, out of range
theorem test_assemble_fields :
    asmWords "PORT_OPEN" [0, 257] = some [0x020001010000] ∧
      asmWords "RB_PEEK" [0, 1] = some [0x120000010000] ∧
      asmWords "JOIN_U" [0x12, 0x34] = some [0x250000120034] ∧
      asmWords "LIMIT" [3, 1] = some [0x520100030000] ∧ asmWords "PORT_OPEN" [256, 1] = none ∧
      asmWords "MSB_S" [-32769] = none := by decide

end Sys2Proof.Tests
end

/-! ## Steps by kind of input, and the invariant (10_state.md R32; 70_reset_and_hazards.md R352) -/

namespace Sys2Proof.Machine

/-! ### What a step does with the oldest input -/

theorem step_of_pending_nil {s : State} (h : s.pending = []) : step s = .next s := by
  simp [step, h]

theorem step_of_pending_cons {s : State} {i : Input} {rest : List Input}
    (h : s.pending = i :: rest) : step s = runInput i { s with pending := rest } := by
  simp [step, h]

/-- Settles O10: each action of the environment is one arm of `runInput`. -/
theorem environmentActsOnItsQueuesOnly : Obligations.EnvironmentActsOnItsQueuesOnly :=
  ⟨fun _ _ _ _ h => step_of_pending_cons h, fun _ _ _ _ h => step_of_pending_cons h,
    fun _ h => step_of_pending_nil h, fun _ _ h => ⟨_, step_of_pending_cons h, rfl, rfl⟩⟩

/-! ### The parts of the invariant -/

theorem Channel.atReset_wf {cfg : Config} (h : cfg.Legal) : Channel.atReset.Wf cfg :=
  ⟨RingBuf.atReset_wf h.2.2.2.1, fun _ => rfl⟩

theorem Channel.afterReset_wf {cfg : Config} (h : cfg.Legal) (c : Channel) :
    c.afterReset.Wf cfg :=
  ⟨RingBuf.atReset_wf h.2.2.2.1, fun _ => rfl⟩

theorem Entry.atReset_wf (cfg : Config) : Entry.atReset.Wf cfg := rfl

theorem State.Inv.array_wf {s : State} (h : s.Inv) : ∀ e ∈ s.array, e.Wf s.cfg := h.2.2.1.2

/-- Any channel read is in its ranges: one that does not exist reads as after reset. -/
theorem State.Inv.chan_wf_total {s : State} (h : s.Inv) (p : Nat) : (s.chan p).Wf s.cfg := by
  by_cases hp : p < s.cfg.nports
  · exact h.chan_wf hp
  · have e : s.chan p = Channel.atReset := by
      simp [State.chan_def, h.chans_length, Nat.not_lt.mp hp]
    exact e ▸ Channel.atReset_wf h.1

/-- Any entry read is in its ranges, in an array whose entries are. -/
theorem entryAt_wf {cfg : Config} {arr : List Entry} (h : ∀ e ∈ arr, e.Wf cfg) (i : Nat) :
    (entryAt arr i).Wf cfg := by
  by_cases hi : i < arr.length
  · exact h _ (entryAt_mem hi)
  · have e : entryAt arr i = Entry.atReset := by simp [entryAt_def, Nat.not_lt.mp hi]
    exact e ▸ Entry.atReset_wf cfg

/-- Received entries keep every owner a channel of the block (43_scanner.md R219; 10_state.md R41). -/
theorem Commits.wf {cfg : Config} {p : Nat} {arr arr' : List Entry} (h : Commits cfg p arr arr')
    (hw : ∀ e ∈ arr, e.Wf cfg) : ∀ e ∈ arr', e.Wf cfg := by
  intro e he
  obtain ⟨j, hj, rfl⟩ := List.mem_iff_getElem.mp he
  have read : arr'[j] = entryAt arr' j := by simp [entryAt_def, hj]
  rw [read]
  rcases h.entry j with same | ⟨-, v, written⟩
  · rw [same]; exact entryAt_wf hw j
  · rw [written]; exact entryAt_wf hw j

/-- A fault's bit is one of the implemented bits 1 to 10 of `FAULTSTAT` (10_state.md R35). -/
theorem FaultCode.latchBit_implemented (f : FaultCode) :
    (1#16 <<< (f.code.toNat - 0x80)) &&& ~~~0x07FE#16 = 0 := by
  cases f <;> decide

/-- The response of a command that does not fault has the form of 30_encoding.md R104. -/
theorem Answers.response_wf {st : Status} {v : Half} (h : Answers st v) :
    Response.Wf { status := st, result := v } := by
  rcases h with ok | ⟨-, zero⟩
  · exact .inl ok
  · exact .inr zero

/-! ### The named updates keep the invariant -/

theorem State.Inv.respond {s : State} {st : Status} {v : Half} (h : s.Inv) (ha : Answers st v) :
    (s.respond st v).Inv := by
  obtain ⟨cfg, chans, array, latch, stage, -⟩ := h
  exact ⟨cfg, chans, array, latch, stage, by simpa using ha.response_wf⟩

theorem State.Inv.faulted {s : State} (h : s.Inv) (f : FaultCode) : (s.faulted f).Inv := by
  obtain ⟨cfg, chans, array, latch, stage, -⟩ := h
  refine ⟨cfg, chans, array, ?_, stage, List.forall_mem_singleton.mpr (.inr rfl)⟩
  change (s.faultstat ||| 1#16 <<< (f.code.toNat - 0x80)) &&& ~~~0x07FE#16 = 0
  rw [BitVec.and_or_distrib_right, latch, f.latchBit_implemented]; rfl

theorem State.Inv.setChan {s : State} {c : Channel} (h : s.Inv) (p : Nat) (hc : c.Wf s.cfg) :
    (s.setChan p c).Inv := by
  obtain ⟨cfg, ⟨count, chans⟩, array, latch, stage, response⟩ := h
  refine ⟨cfg, ⟨by simpa using count, fun d hd => ?_⟩, array, latch, stage, response⟩
  rcases List.mem_or_eq_of_mem_set hd with old | rfl
  · exact chans d old
  · exact hc

/-- An open channel may get any ring buffer in its ranges. -/
theorem State.Inv.setRing {s : State} {p : Byte} {r : RingBuf} (h : s.Inv) (hp : s.PortOk p)
    (hr : r.Wf s.cfg.rbMaxCap) : (s.setRing p.toNat r).Inv :=
  h.setChan _ ⟨hr, fun closed => absurd (hp.2.symm.trans closed) (by decide)⟩

theorem State.Inv.setArray {s : State} {arr : List Entry} (h : s.Inv)
    (hl : arr.length = s.array.length) (hw : ∀ e ∈ arr, e.Wf s.cfg) : (s.setArray arr).Inv := by
  obtain ⟨cfg, chans, ⟨count, -⟩, latch, stage, response⟩ := h
  exact ⟨cfg, chans, ⟨hl.trans count, hw⟩, latch, stage, response⟩

theorem State.Inv.setEntry {s : State} {e : Entry} (h : s.Inv) (i : Nat) (he : e.Wf s.cfg) :
    (s.setEntry i e).Inv := by
  refine h.setArray (by simp) fun d hd => ?_
  rcases List.mem_or_eq_of_mem_set hd with old | rfl
  · exact h.array_wf d old
  · exact he

theorem State.Inv.setStage {s : State} {l : List Byte} (h : s.Inv) (h4 : l.length % 4 = 0)
    (hl : l.length ≤ stageCap s.cfg) : (s.setStage l).Inv := by
  obtain ⟨cfg, chans, array, latch, -, response⟩ := h
  exact ⟨cfg, chans, array, latch, ⟨h4, hl⟩, response⟩

theorem State.Inv.clearStage {s : State} (h : s.Inv) : (s.setStage []).Inv :=
  h.setStage rfl (Nat.zero_le _)

/-- One more entry staged: four bytes, within `STAGE_CAP` (45_framer.md R270). -/
theorem State.Inv.stageEntry {s : State} (h : s.Inv) (a v : Half)
    (room : s.stage.length + 4 ≤ stageCap s.cfg) :
    (s.setStage (s.stage ++ entryBytes a v)).Inv := by
  have len : (s.stage ++ entryBytes a v).length = s.stage.length + 4 := by simp [entryBytes]
  obtain ⟨-, -, -, -, ⟨whole, -⟩, -⟩ := id h
  exact h.setStage (by omega) (len ▸ room)

theorem State.Inv.setPending {s : State} (h : s.Inv) (rest : List Input) :
    State.Inv { s with pending := rest } := h

theorem State.Inv.arrive {s : State} (h : s.Inv) (p : Nat) (l : List Byte) : (s.arrive p l).Inv :=
  h.setChan p (h.chan_wf_total p)

theorem State.Inv.take {s : State} (h : s.Inv) (p n : Nat) : (s.take p n).Inv :=
  h.setChan p (h.chan_wf_total p)

theorem State.Inv.resetEvent {s : State} (h : s.Inv) : s.resetEvent.Inv := by
  obtain ⟨cfg, ⟨nports, -⟩, ⟨arraySize, -⟩, -⟩ := h
  refine ⟨cfg, ⟨by simpa using nports, fun c hc => ?_⟩, ⟨by simpa using arraySize, fun e he => ?_⟩,
    BitVec.zero_and, ⟨rfl, Nat.zero_le _⟩, by simp⟩
  · obtain ⟨d, -, rfl⟩ := List.mem_map.mp hc
    exact d.afterReset_wf cfg
  · obtain ⟨-, -, rfl⟩ := List.mem_map.mp he
    exact Entry.atReset_wf _

theorem State.init_inv {c : Config} (h : c.Legal) : (State.init c).Inv := by
  refine ⟨h, ⟨List.length_replicate, fun d hd => ?_⟩, ⟨List.length_replicate, fun e he => ?_⟩,
    BitVec.zero_and, ⟨rfl, Nat.zero_le _⟩, by simp [State.init]⟩
  · exact List.eq_of_mem_replicate hd ▸ Channel.atReset_wf h
  · exact List.eq_of_mem_replicate he ▸ Entry.atReset_wf c

/-- Settles O17: by the invariant of every power-on state, at the configuration of the vectors for
`State.reset`. -/
theorem powerOnMeetsInvariant : Obligations.PowerOnMeetsInvariant :=
  ⟨fun _ h => State.init_inv h, State.init_inv (by decide)⟩

/-! ### The scanner keeps the invariant -/

/-- A scan of channel `p` (43_scanner.md R210): the drained and scanned ring stays in its ranges, and
the array changes by received entries only. -/
theorem State.Inv.scanned {s : State} {p : Byte} (h : s.Inv) (hp : s.PortOk p) :
    let d := drain (s.chan p.toNat).ring (s.chan p.toNat).src
    let w := scanBuffer s.cfg s.localAddr p.toNat d.1 s.array
    ((s.setChan p.toNat { s.chan p.toNat with ring := w.ring, src := d.2 }).setArray w.array).Inv := by
  intro d w
  have drained : d.1.Wf s.cfg.rbMaxCap := (drain_spec (s.chan p.toNat).src (h.ring_wf hp)).1
  obtain ⟨ring, -, commits⟩ :=
    scanBuffer_spec s.cfg s.localAddr p.toNat s.cfg.rbMaxCap s.array drained
  have chan : (s.setChan p.toNat { s.chan p.toNat with ring := w.ring, src := d.2 }).Inv :=
    h.setChan _ ⟨ring, fun closed => absurd (hp.2.symm.trans closed) (by decide)⟩
  exact chan.setArray commits.length (commits.wf h.array_wf)

/-! ### Every command and every step keep the invariant -/

theorem Effect.inv {i : Instr} {s t : State} (h : s.Inv) (he : Effect i s t) : t.Inv := by
  cases i with
  | nop | rdFault | rbPeek | rbSize | rbEmpty | rbFull | msbS | lsbS | msbU | lsbU | joinS | joinU
  | crcRead | rdFlag =>
    obtain rfl : t = s := he
    exact h
  | init addr =>
    obtain rfl : t = s.setAddr addr := he
    exact h
  | crcInit =>
    obtain rfl : t = s.setCrcAcc 0 := he
    exact h
  | crcByte b =>
    obtain rfl : t = s.setCrcAcc (crcStep s.crcAcc b) := he
    exact h
  | portOpen p c =>
    obtain ⟨-, ⟨low, high⟩, rfl⟩ := he
    exact h.setChan _ ⟨RingBuf.fresh_wf _ low high, fun _ => rfl⟩
  | portClose p =>
    obtain ⟨hp, rfl⟩ := he
    exact h.setChan _ ⟨(h.ring_wf hp).closed, fun _ => rfl⟩
  | rbPush p b =>
    obtain ⟨hp, rfl | ⟨notFull, rfl⟩⟩ := he
    · exact h
    · have ring := h.ring_wf hp
      exact h.setRing hp (ring.push (Nat.lt_of_le_of_ne ring.2.2.2 notFull) b)
  | rbPop p =>
    obtain ⟨hp, -, rfl⟩ := he
    exact h.setRing hp (h.ring_wf hp).dropOne
  | scan p =>
    obtain ⟨hp, -, rfl⟩ := he
    exact h.scanned hp
  | rdArray a =>
    obtain ⟨-, rfl⟩ := he
    exact h.setEntry _ (entryAt_wf h.array_wf a.toNat)
  | limit a p =>
    obtain ⟨hp, rfl | rfl⟩ := he
    · exact h
    · exact h.setEntry _ (decide_eq_true hp.1)
  | queue a v =>
    rcases he with rfl | ⟨room, rfl⟩
    · exact h
    · exact h.stageEntry a v room
  | clearPkt =>
    obtain rfl : t = s.setStage [] := he
    exact h.clearStage
  | send p d =>
    obtain ⟨hp, -, rfl⟩ := he
    refine State.Inv.clearStage (h.setChan _ ?_)
    exact h.chan_wf hp.1

theorem exec_keeps_inv {i : Instr} {s t : State} (h : s.Inv) (e : exec i s = .next t) : t.Inv := by
  rcases exec_next e with ⟨f, rfl⟩ | ⟨u, st, v, rfl, effect, answers⟩
  · exact h.faulted f
  · exact (Effect.inv h effect).respond answers

/-- Settles O16, by the kinds of input of `step_cases`; commands by `exec_keeps_inv`. -/
theorem stepKeepsInvariant : Obligations.StepKeepsInvariant := by
  intro s t h e
  rcases step_cases e with ⟨-, rfl⟩ | ⟨rest, -, ⟨w, r, -, -, rfl⟩ | ⟨w, i, -, -, run⟩ |
    ⟨p, l, -, rfl⟩ | ⟨p, n, -, rfl⟩ | ⟨-, rfl⟩⟩
  · exact h
  · exact (h.setPending rest).faulted _
  · exact exec_keeps_inv (h.setPending rest) run
  · exact (h.setPending rest).arrive p l
  · exact (h.setPending rest).take p n
  · exact (h.setPending rest).resetEvent

end Sys2Proof.Machine

/-! ## The reset event (10_state.md R49; 70_reset_and_hazards.md R350, R351) -/

namespace Sys2Proof.Machine

@[simp] theorem State.chan_resetEvent (s : State) (p : Nat) :
    s.resetEvent.chan p = (s.chan p).afterReset := by
  by_cases hp : p < s.chans.length
  · simp [State.chan_def, hp]
  · simp [State.chan_def, Nat.not_lt.mp hp, Channel.atReset, Channel.afterReset]

@[simp] theorem State.entry_resetEvent (s : State) (i : Nat) :
    s.resetEvent.entry i = Entry.atReset := by
  by_cases hi : i < s.array.length
  · simp [State.entry, entryAt_def, hi]
  · simp [State.entry, entryAt_def, Nat.not_lt.mp hi]

@[simp] theorem State.chan_init (c : Config) (p : Nat) : (State.init c).chan p = Channel.atReset :=
  (State.chan_def _ p).trans (List.getElem?_getD_replicate_default_eq _ _ p)

@[simp] theorem State.entry_init (c : Config) (i : Nat) : (State.init c).entry i = Entry.atReset :=
  (entryAt_def _ i).trans (List.getElem?_getD_replicate_default_eq _ _ i)

/-- Settles O18, from what a channel and an entry read as after the reset event and at power-on. -/
theorem resetValues : Obligations.ResetValues := by
  refine ⟨fun s rest h => ⟨_, step_of_pending_cons h, ⟨rfl, rfl, rfl, rfl, fun p => ?_, fun i => ?_⟩,
    rfl, by simp, by simp, fun p => ?_⟩, fun c => ⟨⟨rfl, rfl, rfl, rfl, fun p => ?_, fun i => ?_⟩, rfl⟩⟩
  · rw [State.chan_resetEvent]; exact ⟨rfl, rfl⟩
  · rw [State.entry_resetEvent]; rfl
  · rw [State.chan_resetEvent]; exact ⟨rfl, rfl⟩
  · rw [State.chan_init]; exact ⟨rfl, rfl⟩
  · rw [State.entry_init]; rfl

end Sys2Proof.Machine

/-! ## The access table (10_state.md R50) and what follows from it -/

namespace Sys2Proof.Machine

/-! ### What each named update leaves the same -/

theorem Element.Same.refl (s : State) (e : Element) : e.Same s s := by
  cases e <;> simp [Element.Same]

theorem Element.Same.trans {s t u : State} {e : Element} (h : e.Same s t) (k : e.Same t u) :
    e.Same s u := by
  cases e <;> simp_all [Element.Same]

theorem Element.same_respond (s : State) (st : Status) (v : Half) (e : Element) :
    e.Same s (s.respond st v) := by
  cases e <;> simp [Element.Same]

theorem Element.same_nextDraw (s : State) (e : Element) : e.Same s s.nextDraw := by
  cases e <;> simp [Element.Same]

theorem Element.same_setAddr (s : State) (a : Byte) {e : Element} (h : e ≠ .addr) :
    e.Same s (s.setAddr a) := by
  cases e <;> simp_all [Element.Same]

theorem Element.same_setCrcAcc (s : State) (v : Byte) {e : Element} (h : e ≠ .crcAcc) :
    e.Same s (s.setCrcAcc v) := by
  cases e <;> simp_all [Element.Same]

theorem Element.same_setStage (s : State) (l : List Byte) {e : Element} (h : e ≠ .stage) :
    e.Same s (s.setStage l) := by
  cases e <;> simp_all [Element.Same]

/-- A replaced array leaves the same every element but the columns of the array in which its entries
differ. -/
theorem Element.same_setArray {s : State} {arr : List Entry} {e : Element}
    (value : e = .array → ∀ i, (entryAt arr i).value = (s.entry i).value)
    (dirty : e = .dirty → ∀ i, (entryAt arr i).dirty = (s.entry i).dirty)
    (owner : e = .owner → ∀ i, (entryAt arr i).owner = (s.entry i).owner) :
    e.Same s (s.setArray arr) := by
  cases e with
  | array => exact value rfl
  | dirty => exact dirty rfl
  | owner => exact owner rfl
  | addr | crcAcc | faultstat | openCap | ring | stage | src | snk => simp [Element.Same]

/-- A field the new entry has from the old one is as it was in the whole array. -/
theorem entryAt_set_field {β : Type} {field : Entry → β} {arr : List Entry} {j : Nat} {x : Entry}
    (h : field x = field (entryAt arr j)) (i : Nat) :
    field (entryAt (arr.set j x) i) = field (entryAt arr i) := by
  rw [entryAt_set]
  split_ifs with named
  · exact named.1 ▸ h
  · rfl

theorem Element.same_setEntry {s : State} {j : Nat} {x : Entry} {e : Element}
    (value : e = .array → x.value = (s.entry j).value)
    (dirty : e = .dirty → x.dirty = (s.entry j).dirty)
    (owner : e = .owner → x.owner = (s.entry j).owner) : e.Same s (s.setEntry j x) := by
  exact Element.same_setArray (fun he => entryAt_set_field (value he))
    (fun he => entryAt_set_field (dirty he)) fun he => entryAt_set_field (owner he)

theorem State.chan_setChan_cases (s : State) (p q : Nat) (c : Channel) :
    (p = q ∧ (s.setChan p c).chan q = c) ∨ (s.setChan p c).chan q = s.chan q := by
  rw [State.chan_setChan]
  split_ifs with named
  · exact .inl ⟨named.1, rfl⟩
  · exact .inr rfl

/-- What a replaced channel leaves the same: every element but those of this channel in which it
differs. -/
theorem Element.same_setChan {s : State} {p : Nat} {c : Channel} {e : Element}
    (openCap : e = .openCap p →
      c.isOpen = (s.chan p).isOpen ∧ c.ring.cap = (s.chan p).ring.cap)
    (ring : e = .ring p → c.ring.slot = (s.chan p).ring.slot ∧
      c.ring.head = (s.chan p).ring.head ∧ c.ring.count = (s.chan p).ring.count)
    (src : e = .src p → c.src = (s.chan p).src) (snk : e = .snk p → c.snk = (s.chan p).snk) :
    e.Same s (s.setChan p c) := by
  cases e with
  | addr | crcAcc | faultstat | array | dirty | owner | stage => simp [Element.Same]
  | openCap q | ring q | src q | snk q =>
    rcases s.chan_setChan_cases p q c with ⟨rfl, replaced⟩ | other <;> simp_all [Element.Same]

/-! ### What each command leaves the same -/

/-- Received entries never change an owner (43_scanner.md R219). -/
theorem Commits.owner {cfg : Config} {p : Nat} {arr arr' : List Entry} (h : Commits cfg p arr arr')
    (i : Nat) : (entryAt arr' i).owner = (entryAt arr i).owner := by
  rcases h.entry i with same | ⟨-, v, written⟩
  · rw [same]
  · rw [written]; rfl

/-- The access table: only the `W` entries of a command's row change. -/
theorem Effect.same {i : Instr} {s t : State} (h : Effect i s t) {e : Element}
    (he : e ∉ mayWrite i) : e.Same s t := by
  cases i with
  | nop | rdFault | rbPeek | rbSize | rbEmpty | rbFull | msbS | lsbS | msbU | lsbU | joinS | joinU
  | crcRead | rdFlag =>
    obtain rfl : t = s := h
    exact .refl t e
  | init addr =>
    obtain rfl : t = s.setAddr addr := h
    exact Element.same_setAddr s addr (List.ne_of_not_mem_cons he)
  | crcInit =>
    obtain rfl : t = s.setCrcAcc 0 := h
    exact Element.same_setCrcAcc s 0 (List.ne_of_not_mem_cons he)
  | crcByte b =>
    obtain rfl : t = s.setCrcAcc (crcStep s.crcAcc b) := h
    exact Element.same_setCrcAcc s _ (List.ne_of_not_mem_cons he)
  | portOpen p c =>
    obtain ⟨-, -, rfl⟩ := h
    simp only [mayWrite, List.mem_cons, List.not_mem_nil, or_false, not_or] at he
    refine .trans ?_ (Element.same_nextDraw _ e)
    exact Element.same_setChan (absurd · he.1) (absurd · he.2) (fun _ => rfl) fun _ => rfl
  | portClose p =>
    obtain ⟨-, rfl⟩ := h
    simp only [mayWrite, List.mem_cons, List.not_mem_nil, or_false, not_or] at he
    exact Element.same_setChan (absurd · he.1) (absurd · he.2) (fun _ => rfl) fun _ => rfl
  | rbPush p b =>
    obtain ⟨-, rfl | ⟨-, rfl⟩⟩ := h
    · exact .refl t e
    · exact Element.same_setChan (fun _ => ⟨rfl, rfl⟩) (absurd · (List.ne_of_not_mem_cons he))
        (fun _ => rfl) fun _ => rfl
  | rbPop p =>
    obtain ⟨-, -, rfl⟩ := h
    exact Element.same_setChan (fun _ => ⟨rfl, rfl⟩) (absurd · (List.ne_of_not_mem_cons he))
      (fun _ => rfl) fun _ => rfl
  | scan p =>
    obtain ⟨-, -, rfl⟩ := h
    simp only [mayWrite, List.mem_cons, List.not_mem_nil, or_false, not_or] at he
    obtain ⟨ring, value, dirty, src⟩ := he
    refine .trans ?_ (Element.same_setArray (absurd · value) (absurd · dirty) fun _ =>
      (scanBuffer_commits _ _ _ _ _).owner)
    exact Element.same_setChan (fun _ => ⟨rfl, (scanBuffer_cap _ _ _ _ _).trans (drain_cap _ _)⟩)
      (absurd · ring) (absurd · src) fun _ => rfl
  | rdArray a =>
    obtain ⟨-, rfl⟩ := h
    exact Element.same_setEntry (fun _ => rfl) (absurd · (List.ne_of_not_mem_cons he)) fun _ => rfl
  | limit a p =>
    obtain ⟨-, rfl | rfl⟩ := h
    · exact .refl t e
    · exact Element.same_setEntry (fun _ => rfl) (fun _ => rfl)
        (absurd · (List.ne_of_not_mem_cons he))
  | queue a v =>
    rcases h with rfl | ⟨-, rfl⟩
    · exact .refl t e
    · exact Element.same_setStage s _ (List.ne_of_not_mem_cons he)
  | clearPkt =>
    obtain rfl : t = s.setStage [] := h
    exact Element.same_setStage s [] (List.ne_of_not_mem_cons he)
  | send p d =>
    obtain ⟨-, -, rfl⟩ := h
    simp only [mayWrite, List.mem_cons, List.not_mem_nil, or_false, not_or] at he
    obtain ⟨stage, snk⟩ := he
    refine .trans ?_ (Element.same_setStage _ [] stage)
    exact Element.same_setChan (fun _ => ⟨rfl, rfl⟩) (fun _ => ⟨rfl, rfl, rfl⟩) (fun _ => rfl)
      (absurd · snk)

/-- No command changes the configuration, the inputs still to come or the sizes. -/
theorem Effect.sizes {i : Instr} {s t : State} (h : Effect i s t) :
    t.cfg = s.cfg ∧ t.pending = s.pending ∧ t.chans.length = s.chans.length ∧
      t.array.length = s.array.length := by
  cases i with
  | nop | rdFault | rbPeek | rbSize | rbEmpty | rbFull | msbS | lsbS | msbU | lsbU | joinS | joinU
  | crcRead | rdFlag | init | crcInit | crcByte | clearPkt =>
    obtain rfl : t = _ := h
    exact ⟨rfl, rfl, rfl, rfl⟩
  | portOpen p c =>
    obtain ⟨-, -, rfl⟩ := h
    exact ⟨rfl, rfl, List.length_set, rfl⟩
  | portClose p =>
    obtain ⟨-, rfl⟩ := h
    exact ⟨rfl, rfl, List.length_set, rfl⟩
  | rbPush p b =>
    obtain ⟨-, rfl | ⟨-, rfl⟩⟩ := h
    · exact ⟨rfl, rfl, rfl, rfl⟩
    · exact ⟨rfl, rfl, List.length_set, rfl⟩
  | rbPop p =>
    obtain ⟨-, -, rfl⟩ := h
    exact ⟨rfl, rfl, List.length_set, rfl⟩
  | scan p =>
    obtain ⟨-, -, rfl⟩ := h
    exact ⟨rfl, rfl, List.length_set, (scanBuffer_commits _ _ _ _ _).length⟩
  | rdArray a =>
    obtain ⟨-, rfl⟩ := h
    exact ⟨rfl, rfl, rfl, List.length_set⟩
  | limit a p =>
    obtain ⟨-, rfl | rfl⟩ := h
    · exact ⟨rfl, rfl, rfl, rfl⟩
    · exact ⟨rfl, rfl, rfl, List.length_set⟩
  | queue a v =>
    rcases h with rfl | ⟨-, rfl⟩ <;> exact ⟨rfl, rfl, rfl, rfl⟩
  | send p d =>
    obtain ⟨-, -, rfl⟩ := h
    exact ⟨rfl, rfl, List.length_set, rfl⟩

/-- A response that is no fault's is the answer of a command that passed its checks. -/
theorem exec_next_of_no_fault {i : Instr} {s u : State} {r : Response} (h : exec i s = .next u)
    (hr : u.response = some r) (noFault : r.faults = false) :
    ∃ t st v, u = t.respond st v ∧ Effect i s t := by
  rcases exec_next h with ⟨f, rfl⟩ | ⟨t, st, v, rfl, effect, -⟩
  · obtain rfl := Option.some.inj hr
    cases noFault
  · exact ⟨t, st, v, rfl, effect⟩

/-- Settles O19, from the access table `Effect.same`. -/
theorem commandsWriteOnlyTheirElements : Obligations.CommandsWriteOnlyTheirElements := by
  intro i s u r h hr noFault
  obtain ⟨t, st, v, rfl, effect⟩ := exec_next_of_no_fault h hr noFault
  exact ⟨fun e he => (effect.same he).trans (Element.same_respond t st v e), effect.sizes⟩

/-! ### What a step can do to the fault latch and to the array -/

theorem faultstat_not_mem_mayWrite (i : Instr) : .faultstat ∉ mayWrite i := by
  cases i <;> simp [mayWrite]

/-- Settles O14: a fault sets a bit more, no command's row holds `FAULTSTAT`, and of the other inputs
reset alone writes it. -/
theorem faultBitsStayUntilReset : Obligations.FaultBitsStayUntilReset := by
  intro s t n h notReset bit
  have kept {u : State} (f : FaultCode) (hu : u.faultstat = s.faultstat) :
      (u.faulted f).faultstat.getLsbD n = true := by
    simp [State.faulted, hu, bit]
  rcases step_cases h with ⟨-, rfl⟩ | ⟨rest, -, ⟨w, r, -, -, rfl⟩ | ⟨w, i, -, -, run⟩ |
    ⟨p, l, -, rfl⟩ | ⟨p, k, -, rfl⟩ | ⟨reset, -⟩⟩
  · exact bit
  · exact kept _ rfl
  · rcases exec_next run with ⟨f, rfl⟩ | ⟨u, st, v, rfl, effect, -⟩
    · exact kept f rfl
    · have same : u.faultstat = s.faultstat :=
        effect.same (e := .faultstat) (faultstat_not_mem_mayWrite i)
      exact (congrArg (BitVec.getLsbD · n) same).trans bit
  · exact bit
  · exact bit
  · exact absurd reset notReset

/-- What a step can do to the array: nothing, the reset event, or a command's effect. -/
theorem step_array_cases {s t : State} (h : step s = .next t) :
    t.array = s.array ∨ (s.pending.head? = some .reset ∧ ∀ j, t.entry j = Entry.atReset) ∨
      ∃ w i u, s.pending.head? = some (.command w) ∧ decode w = .ok i ∧
        Effect i { s with pending := s.pending.tail } u ∧ t.array = u.array := by
  rcases step_cases h with ⟨-, rfl⟩ | ⟨rest, rfl, ⟨w, r, -, -, rfl⟩ | ⟨w, i, head, decoded, run⟩ |
    ⟨p, l, -, rfl⟩ | ⟨p, k, -, rfl⟩ | ⟨reset, rfl⟩⟩
  · exact .inl rfl
  · exact .inl rfl
  · rcases exec_next run with ⟨f, rfl⟩ | ⟨u, st, v, rfl, effect, -⟩
    · exact .inl rfl
    · exact .inr (.inr ⟨w, i, u, head, decoded, effect, rfl⟩)
  · exact .inl rfl
  · exact .inl rfl
  · exact .inr (.inl ⟨reset, State.entry_resetEvent _⟩)

theorem scan_of_array_mem_mayWrite {i : Instr} (h : .array ∈ mayWrite i) : ∃ p, i = .scan p := by
  cases i <;> simp_all [mayWrite]

theorem limit_of_owner_mem_mayWrite {i : Instr} (h : .owner ∈ mayWrite i) :
    ∃ a p, i = .limit a p := by
  cases i <;> simp_all [mayWrite]

theorem Entry.writableBy_iff (e : Entry) (p : Nat) :
    e.writableBy p = true ↔ e.owner = none ∨ e.owner = some p := by
  simp [Entry.writableBy]

/-- Settles O22: of the commands `SCAN` alone has the array in its row, and it changes a value only by
a permitted frame's entry. -/
theorem valuesChangeOnlyByPermittedFrames : Obligations.ValuesChangeOnlyByPermittedFrames := by
  intro s t j h changed
  rcases step_array_cases h with same | ⟨reset, -⟩ | ⟨w, i, u, head, decoded, effect, array⟩
  · exact absurd (congrArg Entry.value (State.entry_congr same j)) changed
  · exact .inl reset
  · rw [State.entry_congr array] at changed ⊢
    obtain ⟨p, rfl⟩ : ∃ p, i = .scan p := by
      by_contra notScan
      exact changed (effect.same (e := .array) (mt scan_of_array_mem_mayWrite notScan) j)
    obtain ⟨-, -, rfl⟩ := effect
    rcases (scanBuffer_commits _ _ _ _ _).entry j with same | ⟨writable, v, written⟩
    · exact absurd (congrArg Entry.value same) changed
    · exact .inr ⟨w, p, head, decoded, (Entry.writableBy_iff _ _).mp writable,
        congrArg Entry.dirty written⟩

/-- Settles O23: of the commands `LIMIT` alone has the owners in its row, and it names the entry and
the channel. -/
theorem ownersChangeOnlyByLimitOrReset : Obligations.OwnersChangeOnlyByLimitOrReset := by
  intro s t j h changed
  rcases step_array_cases h with same | ⟨reset, clean⟩ | ⟨w, i, u, head, decoded, effect, array⟩
  · exact absurd (congrArg Entry.owner (State.entry_congr same j)) changed
  · exact .inl ⟨reset, congrArg Entry.owner (clean j)⟩
  · rw [State.entry_congr array] at changed ⊢
    obtain ⟨a, p, rfl⟩ : ∃ a p, i = .limit a p := by
      by_contra notLimit
      exact changed (effect.same (e := .owner) (mt limit_of_owner_mem_mayWrite notLimit) j)
    obtain ⟨-, rfl | rfl⟩ := effect
    · exact absurd rfl changed
    · rw [State.entry_setEntry] at changed ⊢
      split_ifs at changed ⊢ with named
      · exact .inr ⟨w, a, p, head, decoded, named.1, rfl⟩
      · exact absurd rfl changed

end Sys2Proof.Machine

/-! ## Ring-buffer commands on the logical content (40_ring_buffer.md R140 to R142) -/

namespace Sys2Proof.Machine

section
variable {s : State} {p : Byte}

theorem State.PortOk.portFault (h : s.PortOk p) : s.portFault (chanNo p) = none :=
  State.portFault_none h.1 h.2

/-- On an open channel the channel check passes and the check after it decides. -/
theorem guarded_of_portOk (h : s.PortOk p) (more : Option FaultCode) (k : Answer) :
    guarded ((s.portFault (chanNo p)).or more) s k = guarded more s k := by
  rw [h.portFault, Option.none_or]

/-- The ring buffer read back after it was replaced, in a state that meets the invariant. -/
theorem State.Inv.ring_setRing (hs : s.Inv) (hp : s.PortOk p) (r : RingBuf) :
    ((s.setRing p.toNat r).chan p.toNat).ring = r := by
  rw [State.setRing, State.chan_setChan_self _ _ (hs.chans_length ▸ hp.1)]

theorem exec_rbPush_of_room (hp : s.PortOk p) (b : Byte)
    (room : (s.chan p.toNat).ring.count < (s.chan p.toNat).ring.cap) :
    exec (.rbPush p b) s =
      .next ((s.setRing p.toNat ((s.chan p.toNat).ring.push b)).respond .ok 1) := by
  change guarded (s.portFault (chanNo p)) s _ = _
  rw [hp.portFault]
  exact if_neg (Nat.ne_of_lt room)

theorem exec_rbPop_of_nonempty (hp : s.PortOk p) (nonempty : (s.chan p.toNat).ring.count ≠ 0) :
    exec (.rbPop p) s = .next ((s.setRing p.toNat (s.chan p.toNat).ring.dropOne).respond .ok
      (byteResult ((s.chan p.toNat).ring.peek 0))) := by
  change guarded (.or _ (faultUnless ((s.chan p.toNat).ring.count != 0) _)) s _ = _
  rw [guarded_of_portOk hp, bne_iff_ne.mpr nonempty]
  rfl

theorem exec_rbPeek_of_lt (hp : s.PortOk p) {i : Half}
    (inRange : i.toNat < (s.chan p.toNat).ring.count) :
    exec (.rbPeek p i) s = .next (s.answered (byteResult ((s.chan p.toNat).ring.peek i.toNat))) := by
  change guarded (.or _ (faultUnless (decide (i.toNat < (s.chan p.toNat).ring.count)) _)) s _ = _
  rw [guarded_of_portOk hp, decide_eq_true inRange]
  rfl

end

/-- Settles O34, from what a push, a removal and a look do to the content `RingBuf.q`. -/
theorem ringCommandsActOnTheQueue : Obligations.RingCommandsActOnTheQueue := by
  intro p s hs hp
  have back := hs.ring_setRing hp
  refine ⟨fun b room => ?_, fun b rest content => ?_, fun i b read => ?_⟩
  · rw [RingBuf.q_length] at room
    refine ⟨_, exec_rbPush_of_room hp b room, rfl, ?_⟩
    rw [State.chan_respond, back]
    exact ⟨RingBuf.push_q b (hs.ring_wf hp).2.1 room, rfl⟩
  · have nonempty : (s.chan p.toNat).ring.count ≠ 0 := by
      rw [← RingBuf.q_length, content]; exact Nat.succ_ne_zero _
    obtain ⟨first, left⟩ := List.cons.inj ((RingBuf.q_cons nonempty).symm.trans content)
    refine ⟨_, exec_rbPop_of_nonempty hp nonempty, by rw [first]; rfl, ?_⟩
    rw [State.chan_respond, back]
    exact ⟨left, rfl⟩
  · obtain ⟨inRange, -⟩ := List.getElem?_eq_some_iff.mp read
    rw [RingBuf.q_length] at inRange
    rw [RingBuf.q_getElem? _ inRange] at read
    rw [exec_rbPeek_of_lt hp inRange, Option.some.inj read]
    rfl

/-! ## `SCAN` and `SEND` beside the host's accumulator (10_state.md R34; 42_crc8.md R193) -/

/-- A command whose checks and meaning leave `CRC_ACC` out keeps it, and does the same with another. -/
theorem guarded_setCrcAcc {check : Option FaultCode} {s t u : State} {st : Status} {w : Half}
    (v : Byte) (h : guarded check s (.next (u.respond st w)) = .next t) (keeps : u.crcAcc = s.crcAcc) :
    t.crcAcc = s.crcAcc ∧
      guarded check (s.setCrcAcc v) (.next ((u.setCrcAcc v).respond st w)) =
        .next (t.setCrcAcc v) := by
  rcases guarded_next h with ⟨f, rfl, rfl⟩ | ⟨rfl, answer⟩
  · exact ⟨rfl, guarded_some _ _ _⟩
  · obtain rfl := Host.Outcome.next.inj answer
    exact ⟨keeps, rfl⟩

/-- Settles O44: the checks and the meanings of `SCAN` and `SEND` leave `CRC_ACC` out. -/
theorem scanAndSendIgnoreTheAccumulator : Obligations.ScanAndSendIgnoreTheAccumulator :=
  fun _ _ v _ _ => ⟨fun h => guarded_setCrcAcc v h rfl, fun h => guarded_setCrcAcc v h rfl⟩

end Sys2Proof.Machine

/-! ## What no command observes (10_state.md R38, R46, R49) -/

namespace Sys2Proof.Machine

/-! ### Ring buffers with the same capacity and the same content -/

/-- The same capacity and the same logical content: `HEAD` and the dead slots may differ. -/
def RingBuf.Alike (r r' : RingBuf) : Prop := r.cap = r'.cap ∧ r.q = r'.q

theorem RingBuf.Alike.count {r r' : RingBuf} (h : r.Alike r') : r.count = r'.count := by
  rw [← r.q_length, h.2, r'.q_length]

theorem RingBuf.Alike.peek {r r' : RingBuf} (h : r.Alike r') {i : Nat} (hi : i < r.count) :
    r.peek i = r'.peek i := by
  have read := r.q_getElem? hi
  rw [h.2, r'.q_getElem? (h.count ▸ hi)] at read
  exact (Option.some.inj read).symm

theorem RingBuf.Alike.push {m : Nat} {r r' : RingBuf} (h : r.Alike r') (hr : r.Wf m) (hr' : r'.Wf m)
    (room : r.count < r.cap) (b : Byte) : (r.push b).Alike (r'.push b) := by
  refine ⟨h.1, ?_⟩
  rw [r.push_q b hr.2.1 room, r'.push_q b hr'.2.1 (h.count ▸ h.1 ▸ room), h.2]

theorem RingBuf.Alike.dropOne {r r' : RingBuf} (h : r.Alike r') : r.dropOne.Alike r'.dropOne :=
  ⟨h.1, by rw [r.dropOne_q, r'.dropOne_q, h.2]⟩

theorem RingBuf.Alike.dropFront {r r' : RingBuf} (h : r.Alike r') (n : Nat) :
    (RingBuf.dropFront n r).Alike (RingBuf.dropFront n r') :=
  ⟨by simpa using h.1, by simp [h.2]⟩

theorem RingBuf.Alike.synchronize {r r' : RingBuf} (h : r.Alike r') :
    (synchronize r).Alike (synchronize r') := by
  unfold Machine.synchronize
  rw [h.2]
  exact h.dropFront _

theorem RingBuf.fresh_alike (d d' c : Nat) : (RingBuf.fresh d c).Alike (RingBuf.fresh d' c) :=
  ⟨rfl, by rw [RingBuf.fresh_q, RingBuf.fresh_q]⟩

/-- The drain (43_scanner.md R211) moves as many bytes into either of two such buffers. -/
theorem RingBuf.Alike.drain {m : Nat} {r r' : RingBuf} (h : r.Alike r') (hr : r.Wf m) (hr' : r'.Wf m)
    (l : List Byte) : (drain r l).1.Alike (drain r' l).1 ∧ (drain r l).2 = (drain r' l).2 := by
  obtain ⟨-, cap, content, source⟩ := drain_spec l hr
  obtain ⟨-, cap', content', source'⟩ := drain_spec l hr'
  rw [← h.count, ← h.1] at content' source'
  exact ⟨⟨by rw [cap, cap', h.1], by rw [content, content', h.2]⟩, by rw [source, source']⟩

/-! ### The scanner works on the content -/

/-- What the scanner's loop works on, up to `HEAD` and the dead slots. -/
def ScanWork.Alike (x y : ScanWork) : Prop :=
  x.ring.Alike y.ring ∧ x.array = y.array ∧ x.frames = y.frames

theorem ScanWork.Alike.synchronize {x y : ScanWork} (h : x.Alike y) :
    ScanWork.Alike { x with ring := synchronize x.ring } { y with ring := synchronize y.ring } :=
  ⟨h.1.synchronize, h.2⟩

theorem ScanWork.Alike.discardOne {x y : ScanWork} (h : x.Alike y) :
    x.discardOne.Alike y.discardOne :=
  ⟨h.1.dropFront 1, h.2⟩

theorem ScanWork.Alike.commit {x y : ScanWork} (h : x.Alike y) (cfg : Config) (p : Nat) :
    (x.commit cfg p).Alike (y.commit cfg p) := by
  obtain ⟨ring, array, frames⟩ := h
  unfold ScanWork.commit
  rw [ring.2, array, frames]
  exact ⟨ring.dropFront _, rfl, rfl⟩

/-- Every test of a pass reads the content only (43_scanner.md R214 to R220). -/
theorem ScanWork.Alike.scanPass {x y : ScanWork} (h : x.Alike y) (cfg : Config) (addr : Byte)
    (p : Nat) : (scanPass cfg addr p x).1 = (scanPass cfg addr p y).1 ∧
      (scanPass cfg addr p x).2.Alike (scanPass cfg addr p y).2 := by
  unfold Machine.scanPass
  rw [h.1.2]
  split_ifs
  · exact ⟨rfl, h⟩
  · exact ⟨rfl, h.discardOne⟩
  · exact ⟨rfl, h⟩
  · exact ⟨rfl, h.commit cfg p⟩
  · exact ⟨rfl, h.discardOne⟩

theorem ScanWork.Alike.scanLoop {x y : ScanWork} (h : x.Alike y) (cfg : Config) (addr : Byte)
    (p fuel : Nat) : (scanLoop cfg addr p fuel x).Alike (scanLoop cfg addr p fuel y) := by
  induction fuel generalizing x y with
  | zero => exact h
  | succ fuel ih =>
    obtain ⟨goesOn, next⟩ := h.synchronize.scanPass cfg addr p
    rw [scanLoop_succ, scanLoop_succ, ← h.1.count, ← goesOn]
    split_ifs
    · exact h
    · exact ih next
    · exact next

theorem RingBuf.Alike.scanBuffer {r r' : RingBuf} (h : r.Alike r') (cfg : Config) (addr : Byte)
    (p : Nat) (arr : List Entry) :
    (scanBuffer cfg addr p r arr).Alike (scanBuffer cfg addr p r' arr) := by
  unfold Machine.scanBuffer
  rw [h.count]
  have start : ScanWork.Alike { ring := r, array := arr, frames := 0 }
      { ring := r', array := arr, frames := 0 } := ⟨h, rfl, rfl⟩
  exact start.scanLoop cfg addr p _

/-! ### Updates of states that agree -/

theorem Channel.Agree.isOpen {c d : Channel} (h : c.Agree d) : c.isOpen = d.isOpen := h.1

/-- The buffers of open channels that agree are alike. -/
theorem Channel.Agree.ring {c d : Channel} (h : c.Agree d) (hc : c.isOpen = true) :
    c.ring.Alike d.ring :=
  h.2.2.2 hc

theorem Channel.Agree.withRing {c d : Channel} {r r' : RingBuf} (h : c.Agree d) (hr : r.Alike r') :
    Channel.Agree { c with ring := r } { d with ring := r' } :=
  ⟨h.1, h.2.1, h.2.2.1, fun _ => hr⟩

theorem Channel.Agree.withSrc {c d : Channel} {l l' : List Byte} (h : c.Agree d) (hl : l = l') :
    Channel.Agree { c with src := l } { d with src := l' } :=
  ⟨h.1, hl, h.2.2⟩

section
variable {s u : State}

theorem State.Agree.cfg (h : s.Agree u) : s.cfg = u.cfg := h.1

theorem State.Agree.addrValid (h : s.Agree u) : s.addrValid = u.addrValid := h.2.1

/-- Once an address is set, both states hold it (10_state.md R46). -/
theorem State.Agree.localAddr (h : s.Agree u) (valid : s.addrValid = true) :
    s.localAddr = u.localAddr :=
  h.2.2.1 valid

theorem State.Agree.chan (h : s.Agree u) (p : Nat) : (s.chan p).Agree (u.chan p) := by
  obtain ⟨-, -, -, -, -, chans, -⟩ := h
  exact chans p

theorem State.Agree.array (h : s.Agree u) : s.array = u.array := by
  obtain ⟨-, -, -, -, -, -, array, -⟩ := h
  exact array

theorem State.Agree.stage (h : s.Agree u) : s.stage = u.stage := by
  obtain ⟨-, -, -, -, -, -, -, stage, -⟩ := h
  exact stage

theorem State.Agree.pending (h : s.Agree u) : s.pending = u.pending := by
  obtain ⟨-, -, -, -, -, -, -, -, pending, -⟩ := h
  exact pending

theorem State.Agree.entry (h : s.Agree u) (i : Nat) : s.entry i = u.entry i :=
  State.entry_congr h.array i

theorem State.Agree.chans_length (h : s.Agree u) (hs : s.Inv) (hu : u.Inv) :
    s.chans.length = u.chans.length := by
  rw [hs.chans_length, hu.chans_length, h.cfg]

theorem State.Agree.respond (h : s.Agree u) (st : Status) (v : Half) :
    (s.respond st v).Agree (u.respond st v) := by
  obtain ⟨cfg, valid, addr, crc, latch, chans, array, stage, pending, -⟩ := h
  exact ⟨cfg, valid, addr, crc, latch, chans, array, stage, pending, rfl⟩

theorem State.Agree.faulted (h : s.Agree u) (f : FaultCode) : (s.faulted f).Agree (u.faulted f) := by
  obtain ⟨cfg, valid, addr, crc, latch, chans, array, stage, pending, -⟩ := h
  exact ⟨cfg, valid, addr, crc, congrArg (· ||| 1#16 <<< (f.code.toNat - 0x80)) latch, chans, array,
    stage, pending, rfl⟩

theorem State.Agree.setAddr (h : s.Agree u) (a : Byte) : (s.setAddr a).Agree (u.setAddr a) := by
  obtain ⟨cfg, -, -, crc, rest⟩ := h
  exact ⟨cfg, rfl, fun _ => rfl, crc, rest⟩

theorem State.Agree.setCrcAcc (h : s.Agree u) (v : Byte) :
    (s.setCrcAcc v).Agree (u.setCrcAcc v) := by
  obtain ⟨cfg, valid, addr, -, rest⟩ := h
  exact ⟨cfg, valid, addr, rfl, rest⟩

theorem State.Agree.setArray (h : s.Agree u) (arr : List Entry) :
    (s.setArray arr).Agree (u.setArray arr) := by
  obtain ⟨cfg, valid, addr, crc, latch, chans, -, rest⟩ := h
  exact ⟨cfg, valid, addr, crc, latch, chans, rfl, rest⟩

theorem State.Agree.setEntry (h : s.Agree u) (i : Nat) (e : Entry) :
    (s.setEntry i e).Agree (u.setEntry i e) := by
  unfold State.setEntry
  rw [← h.array]
  exact h.setArray _

theorem State.Agree.setStage (h : s.Agree u) (l : List Byte) :
    (s.setStage l).Agree (u.setStage l) := by
  obtain ⟨cfg, valid, addr, crc, latch, chans, array, -, rest⟩ := h
  exact ⟨cfg, valid, addr, crc, latch, chans, array, rfl, rest⟩

theorem State.Agree.nextDraw (h : s.Agree u) : s.nextDraw.Agree u.nextDraw := h

theorem State.Agree.setPending (h : s.Agree u) (rest : List Input) :
    State.Agree { s with pending := rest } { u with pending := rest } := by
  obtain ⟨cfg, valid, addr, crc, latch, chans, array, stage, -, response⟩ := h
  exact ⟨cfg, valid, addr, crc, latch, chans, array, stage, rfl, response⟩

theorem State.Agree.setChan (h : s.Agree u) (len : s.chans.length = u.chans.length) (p : Nat)
    {c d : Channel} (hc : c.Agree d) : (s.setChan p c).Agree (u.setChan p d) := by
  obtain ⟨cfg, valid, addr, crc, latch, chans, rest⟩ := h
  refine ⟨cfg, valid, addr, crc, latch, fun q => ?_, rest⟩
  rw [State.chan_setChan, State.chan_setChan, ← len]
  split_ifs
  · exact hc
  · exact chans q

theorem State.Agree.resetEvent (h : s.Agree u) : s.resetEvent.Agree u.resetEvent := by
  obtain ⟨cfg, -, -, -, -, chans, array, -, pending, -⟩ := h
  refine ⟨cfg, rfl, fun _ => rfl, rfl, rfl, fun p => ?_, congrArg (List.map _) array, rfl, pending,
    rfl⟩
  obtain ⟨-, src, snk, -⟩ := chans p
  rw [State.chan_resetEvent, State.chan_resetEvent]
  exact ⟨rfl, src, snk, fun _ => ⟨rfl, rfl⟩⟩

theorem State.Agree.arrive (h : s.Agree u) (len : s.chans.length = u.chans.length) (p : Nat)
    (l : List Byte) : (s.arrive p l).Agree (u.arrive p l) := by
  obtain ⟨isOpen, src, snk, ring⟩ := h.chan p
  exact h.setChan len p ⟨isOpen, congrArg (· ++ l) src, snk, ring⟩

theorem State.Agree.take (h : s.Agree u) (len : s.chans.length = u.chans.length) (p n : Nat) :
    (s.take p n).Agree (u.take p n) := by
  obtain ⟨isOpen, src, snk, ring⟩ := h.chan p
  exact h.setChan len p ⟨isOpen, src, congrArg (List.drop n) snk, ring⟩

/-! ### The checks read nothing unobservable -/

theorem State.Agree.portNumberFault (h : s.Agree u) (p : Nat) :
    s.portNumberFault p = u.portNumberFault p := by
  rw [State.portNumberFault, State.portNumberFault, h.cfg]

theorem State.Agree.portFault (h : s.Agree u) (p : Nat) : s.portFault p = u.portFault p := by
  rw [State.portFault, State.portFault, h.portNumberFault, (h.chan p).isOpen]

theorem State.Agree.addrFault (h : s.Agree u) : s.addrFault = u.addrFault := by
  rw [State.addrFault, State.addrFault, h.addrValid]

theorem State.Agree.openFault (h : s.Agree u) (p c : Nat) : openFault p c s = openFault p c u := by
  rw [Machine.openFault, Machine.openFault, h.portNumberFault, (h.chan p).isOpen, h.cfg]

theorem State.Agree.indexFault (h : s.Agree u) (i : Nat) : indexFault i s = indexFault i u := by
  rw [Machine.indexFault, Machine.indexFault, h.cfg]

theorem State.Agree.portOk {p : Byte} (h : s.Agree u) (hp : s.PortOk p) : u.PortOk p :=
  ⟨h.cfg ▸ hp.1, (h.chan p.toNat).isOpen ▸ hp.2⟩

/-! ### Answers that agree -/

/-- Both answers are next states, and these agree. -/
def AnswersAgree (a b : Answer) : Prop := ∃ s u, a = .next s ∧ b = .next u ∧ s.Agree u

theorem AnswersAgree.next (h : s.Agree u) : AnswersAgree (.next s) (.next u) := ⟨s, u, rfl, rfl, h⟩

theorem AnswersAgree.respond (h : s.Agree u) (st : Status) (v : Half) :
    AnswersAgree (.next (s.respond st v)) (.next (u.respond st v)) :=
  .next (h.respond st v)

/-- Checks made one after the other. -/
theorem guarded_or (a b : Option FaultCode) (s : State) (k : Answer) :
    guarded (a.or b) s k = guarded a s (guarded b s k) := by
  cases a <;> rfl

theorem AnswersAgree.of_guarded {c c' : Option FaultCode} {k k' : Answer} (h : s.Agree u) (hc : c = c')
    (hk : c = none → AnswersAgree k k') : AnswersAgree (guarded c s k) (guarded c' u k') := by
  subst hc
  cases c with
  | none => exact hk rfl
  | some f => rw [guarded_some, guarded_some]; exact .next (h.faulted f)

theorem AnswersAgree.of_ite {a b : Prop} [Decidable a] [Decidable b] {k k' l l' : Answer}
    (same : a ↔ b) (hk : a → AnswersAgree k k') (hl : ¬ a → AnswersAgree l l') :
    AnswersAgree (if a then k else l) (if b then k' else l') := by
  by_cases ha : a
  · rw [if_pos ha, if_pos (same.mp ha)]; exact hk ha
  · rw [if_neg ha, if_neg (mt same.mpr ha)]; exact hl ha

/-- A command behind the channel check (40_ring_buffer.md): its channel may be taken as open. -/
theorem AnswersAgree.of_port {p : Byte} {k k' : Answer} (h : s.Agree u)
    (hk : s.PortOk p → AnswersAgree k k') :
    AnswersAgree (guarded (s.portFault (chanNo p)) s k) (guarded (u.portFault (chanNo p)) u k') :=
  .of_guarded h (h.portFault _) fun none => hk (portOk_of_none none)

/-- A command behind the channel check and the address check, as `SCAN` and `SEND` are: its channel
may be taken as open and the addresses as equal. -/
theorem AnswersAgree.of_portAddr {p : Byte} {k k' : Answer} (h : s.Agree u)
    (hk : s.PortOk p → s.localAddr = u.localAddr → AnswersAgree k k') :
    AnswersAgree (guarded ((s.portFault (chanNo p)).or s.addrFault) s k)
      (guarded ((u.portFault (chanNo p)).or u.addrFault) u k') := by
  rw [guarded_or, guarded_or]
  exact .of_port h fun hp => .of_guarded h h.addrFault fun none =>
    hk hp (h.localAddr (faultUnless_none none))

/-- A query of an open channel's buffer that reads alike buffers alike. -/
theorem AnswersAgree.of_ringQuery {p : Byte} {read : RingBuf → Half} (h : s.Agree u)
    (hread : ∀ r r' : RingBuf, r.Alike r' → read r = read r') :
    AnswersAgree (ringQuery p read s) (ringQuery p read u) := by
  refine .of_port h fun hp => ?_
  rw [hread _ _ ((h.chan (chanNo p)).ring hp.2)]
  exact .respond h _ _

/-! ### Every command -/

theorem execPortOpen_agree (h : s.Agree u) (len : s.chans.length = u.chans.length) (p : Byte)
    (c : Half) : AnswersAgree (execPortOpen p c s) (execPortOpen p c u) := by
  refine .of_guarded h (h.openFault _ _) fun _ => ?_
  obtain ⟨-, src, snk, -⟩ := h.chan (chanNo p)
  have opened := h.setChan len (chanNo p)
    (c := { s.chan (chanNo p) with isOpen := true, ring := RingBuf.fresh s.draws (u16 c) })
    (d := { u.chan (chanNo p) with isOpen := true, ring := RingBuf.fresh u.draws (u16 c) })
    ⟨rfl, src, snk, fun _ => RingBuf.fresh_alike _ _ _⟩
  exact .respond opened.nextDraw _ _

theorem execPortClose_agree (h : s.Agree u) (len : s.chans.length = u.chans.length) (p : Byte) :
    AnswersAgree (execPortClose p s) (execPortClose p u) := by
  refine .of_port h fun _ => .respond (h.setChan len _ ?_) _ _
  obtain ⟨-, src, snk, -⟩ := h.chan (chanNo p)
  exact ⟨rfl, src, snk, fun closed => absurd closed Bool.false_ne_true⟩

theorem execRbPush_agree (h : s.Agree u) (hs : s.Inv) (hu : u.Inv) (p b : Byte) :
    AnswersAgree (execRbPush p b s) (execRbPush p b u) := by
  refine .of_port h fun hp => ?_
  have alike := (h.chan (chanNo p)).ring hp.2
  have wf := hs.ring_wf hp
  obtain ⟨-, -, -, inRange⟩ := id wf
  refine .of_ite (by rw [alike.count, alike.1]) (fun _ => .respond h _ _) fun notFull => ?_
  have pushed := alike.push wf (h.cfg ▸ hu.ring_wf (h.portOk hp))
    (Nat.lt_of_le_of_ne inRange notFull) b
  exact .respond (h.setChan (h.chans_length hs hu) _ ((h.chan _).withRing pushed)) _ _

theorem execRbPop_agree (h : s.Agree u) (len : s.chans.length = u.chans.length) (p : Byte) :
    AnswersAgree (execRbPop p s) (execRbPop p u) := by
  unfold execRbPop
  simp only [guarded_or]
  refine .of_port h fun hp => ?_
  have alike := (h.chan (chanNo p)).ring hp.2
  refine .of_guarded h (by rw [alike.count]) fun nonempty => ?_
  have pos : 0 < (s.chan (chanNo p)).ring.count :=
    Nat.pos_of_ne_zero (by simpa using faultUnless_none nonempty)
  rw [alike.peek pos]
  exact .respond (h.setChan len _ ((h.chan _).withRing alike.dropOne)) _ _

theorem execRbPeek_agree (h : s.Agree u) (p : Byte) (i : Half) :
    AnswersAgree (execRbPeek p i s) (execRbPeek p i u) := by
  unfold execRbPeek
  simp only [guarded_or]
  refine .of_port h fun hp => ?_
  have alike := (h.chan (chanNo p)).ring hp.2
  refine .of_guarded h (by rw [alike.count]) fun inRange => ?_
  rw [alike.peek (of_decide_eq_true (faultUnless_none inRange))]
  exact .respond h _ _

theorem execScan_agree (h : s.Agree u) (hs : s.Inv) (hu : u.Inv) (p : Byte) :
    AnswersAgree (execScan p s) (execScan p u) := by
  refine .of_portAddr h fun hp addr => ?_
  obtain ⟨-, src, -, alike⟩ := h.chan (chanNo p)
  obtain ⟨drained, left⟩ := RingBuf.Alike.drain (alike hp.2) (hs.ring_wf hp)
    (h.cfg ▸ hu.ring_wf (h.portOk hp)) (s.chan (chanNo p)).src
  obtain ⟨ring, array, frames⟩ := drained.scanBuffer s.cfg s.localAddr (chanNo p) s.array
  simp only [← src, ← h.cfg, ← addr, ← h.array, ← array, ← frames]
  have scanned := ((h.chan (chanNo p)).withRing ring).withSrc left
  exact .respond ((h.setChan (h.chans_length hs hu) _ scanned).setArray _) _ _

theorem execSend_agree (h : s.Agree u) (len : s.chans.length = u.chans.length) (p d : Byte) :
    AnswersAgree (execSend p d s) (execSend p d u) := by
  refine .of_portAddr h fun _ addr => ?_
  obtain ⟨isOpen, src, snk, alike⟩ := h.chan (chanNo p)
  have sent : ((s.chan (chanNo p)).emit (frame s.localAddr d s.stage)).Agree
      ((u.chan (chanNo p)).emit (frame u.localAddr d u.stage)) :=
    ⟨isOpen, src, by simp only [Channel.emit, snk, addr, h.stage], alike⟩
  exact .respond ((h.setChan len _ sent).setStage []) _ _

theorem execRdArray_agree (h : s.Agree u) (i : Half) :
    AnswersAgree (execRdArray i s) (execRdArray i u) := by
  refine .of_guarded h (h.indexFault _) fun _ => ?_
  rw [h.entry]
  exact .respond (h.setEntry _ _) _ _

theorem execRdFlag_agree (h : s.Agree u) (i : Half) :
    AnswersAgree (execRdFlag i s) (execRdFlag i u) := by
  refine .of_guarded h (h.indexFault _) fun _ => ?_
  rw [h.entry]
  exact .respond h _ _

theorem execLimit_agree (h : s.Agree u) (i : Half) (p : Byte) :
    AnswersAgree (execLimit i p s) (execLimit i p u) := by
  refine .of_port h fun _ => .of_ite (by rw [h.cfg]) (fun _ => ?_) fun _ => .respond h _ _
  rw [h.entry]
  exact .respond (h.setEntry _ _) _ _

theorem execQueue_agree (h : s.Agree u) (i v : Half) :
    AnswersAgree (execQueue i v s) (execQueue i v u) := by
  unfold execQueue
  rw [h.stage, h.cfg]
  split_ifs
  · exact .respond h _ _
  · exact .respond (h.setStage _) _ _

/-- No command observes what `State.Agree` leaves out. -/
theorem exec_agree (h : s.Agree u) (hs : s.Inv) (hu : u.Inv) (i : Instr) :
    AnswersAgree (exec i s) (exec i u) := by
  have len := h.chans_length hs hu
  obtain ⟨-, -, -, crc, latch, -⟩ := id h
  cases i with
  | nop | msbS | lsbS | msbU | lsbU | joinS | joinU => exact .respond h _ _
  | init addr => exact .respond (h.setAddr addr) _ _
  | portOpen p c => exact execPortOpen_agree h len p c
  | portClose p => exact execPortClose_agree h len p
  | rdFault => simp only [exec, execRdFault, latch]; exact .respond h _ _
  | rbPush p b => exact execRbPush_agree h hs hu p b
  | rbPop p => exact execRbPop_agree h len p
  | rbPeek p i => exact execRbPeek_agree h p i
  | rbSize p =>
    exact .of_ringQuery (read := fun r => countResult r.count) h
      fun _ _ alike => by rw [alike.count]
  | rbEmpty p =>
    exact .of_ringQuery (read := fun r => boolResult (r.count == 0)) h
      fun _ _ alike => by rw [alike.count]
  | rbFull p =>
    exact .of_ringQuery (read := fun r => boolResult (r.count == r.cap)) h
      fun _ _ alike => by rw [alike.count, alike.1]
  | crcInit => exact .respond (h.setCrcAcc _) _ _
  | crcByte b => simp only [exec, execCrcByte, crc]; exact .respond (h.setCrcAcc _) _ _
  | crcRead => simp only [exec, execCrcRead, crc]; exact .respond h _ _
  | scan p => exact execScan_agree h hs hu p
  | rdArray i => exact execRdArray_agree h i
  | rdFlag i => exact execRdFlag_agree h i
  | limit i p => exact execLimit_agree h i p
  | queue i v => exact execQueue_agree h i v
  | clearPkt => exact .respond (h.setStage []) _ _
  | send p d => exact execSend_agree h len p d

/-- Nor does any other input. -/
theorem runInput_agree (h : s.Agree u) (hs : s.Inv) (hu : u.Inv) (i : Input) :
    AnswersAgree (runInput i s) (runInput i u) := by
  have len := h.chans_length hs hu
  cases i with
  | command w =>
    change AnswersAgree (runWord w s) (runWord w u)
    unfold runWord
    split
    · exact exec_agree h hs hu _
    · rw [State.raiseFault_eq, State.raiseFault_eq]
      exact .next (h.faulted _)
  | arrive p l => exact .next (h.arrive len p l)
  | take p n => exact .next (h.take len p n)
  | reset => exact .next h.resetEvent

end

/-- Settles O36, by the oldest input: either there is none, or `runInput_agree` compares its runs. -/
theorem headAndDeadSlotsAreUnobservable : Obligations.HeadAndDeadSlotsAreUnobservable := by
  intro s u hs hu h
  cases pending : s.pending with
  | nil =>
    exact ⟨s, u, step_of_pending_nil pending, step_of_pending_nil (h.pending ▸ pending), h⟩
  | cons i rest =>
    rw [step_of_pending_cons pending, step_of_pending_cons (h.pending ▸ pending)]
    exact runInput_agree (h.setPending rest) (hs.setPending rest) (hu.setPending rest) i

end Sys2Proof.Machine

/-! ## Command words on a byte-wide bus (20_memory.md R75) -/

namespace Sys2Proof

/-- The bytes of a word are its fields, the 16-bit ones high byte first. -/
theorem wordBytes_eq (w : CmdWord) :
    wordBytes w =
      [opcOf w, pOf w, highByte (aOf w), lowByte (aOf w), highByte (bOf w), lowByte (bOf w)] := by
  have part (start len i n : Nat) (h : i + n ≤ len) :
      (w.extractLsb' start len).extractLsb' i n = w.extractLsb' (start + i) n := by
    ext j hj
    simp [show i + j < len by omega, Nat.add_assoc]
  simp [wordBytes, opcOf, pOf, aOf, bOf, highByte, lowByte, part]

theorem toNat_highByte (v : Half) : (highByte v).toNat = v.toNat / 256 := by
  have := v.isLt
  simp only [highByte, BitVec.extractLsb'_toNat, Nat.shiftRight_eq_div_pow]
  omega

theorem toNat_lowByte (v : Half) : (lowByte v).toNat = v.toNat % 256 :=
  BitVec.extractLsb'_toNat 0 8 v

/-- Six bytes sent most significant first, put together again, are the word. -/
theorem append_wordBytes (w : CmdWord) :
    w.extractLsb' 40 8 ++ w.extractLsb' 32 8 ++ w.extractLsb' 24 8 ++ w.extractLsb' 16 8 ++
      w.extractLsb' 8 8 ++ w.extractLsb' 0 8 = w := by
  have join (k n : Nat) : w.extractLsb' (k + 8) n ++ w.extractLsb' k 8 = w.extractLsb' k (n + 8) :=
    BitVec.extractLsb'_append_extractLsb'_eq_extractLsb' rfl
  rw [join 32, join 24, join 16, join 8, join 0]
  exact BitVec.extractLsb'_eq_self

theorem decodeBytes_wordBytes (w : CmdWord) :
    decodeBytes (wordBytes w) = (decode w).mapError .word := by
  rw [wordBytes, decodeBytes, append_wordBytes]
  cases decode w <;> rfl

/-- Settles O7: the bytes are the fields of the word, and together they are the word again. -/
theorem commandBytesGoMostSignificantFirst : Obligations.CommandBytesGoMostSignificantFirst := by
  refine ⟨fun opc p a b => ?_, fun w => ?_⟩
  · simp [wordBytes_eq, toNat_highByte, toNat_lowByte]
  · rw [decodeBytes_wordBytes]
    exact ⟨fun i h => by rw [h]; rfl, fun r h => by rw [h]; rfl⟩

end Sys2Proof

/-! ## Commands that may be repeated (20_memory.md R78) -/

namespace Sys2Proof.Machine

/-- The command answers, after one check, a value read from the state, and neither the check nor the
value depends on an earlier answer. -/
def IsQuery (i : Instr) : Prop :=
  ∃ (check : State → Option FaultCode) (value : State → Half),
    (∀ s, exec i s = guarded (check s) s (.next (s.answered (value s)))) ∧
      ∀ s v, check (s.answered v) = check s ∧ value (s.answered v) = value s

theorem isQuery_of_changesNothing {i : Instr} (h : changesNothing i = true) : IsQuery i := by
  cases i with
  | nop | rdFault | msbS | lsbS | msbU | lsbU | joinS | joinU | crcRead =>
    exact ⟨fun _ => none, _, fun _ => rfl, fun _ _ => ⟨rfl, rfl⟩⟩
  | rbPeek | rbSize | rbEmpty | rbFull | rdFlag =>
    exact ⟨_, _, fun _ => rfl, fun _ _ => ⟨rfl, rfl⟩⟩
  | init | portOpen | portClose | rbPush | rbPop | crcInit | crcByte | scan | rdArray | limit | queue
  | clearPkt | send => cases h

/-- Settles O20: each of the commands is a query, and a query repeated checks and reads the same. -/
theorem repeatableCommandsChangeNothing : Obligations.RepeatableCommandsChangeNothing := by
  intro i s h
  obtain ⟨check, value, run, indep⟩ := isQuery_of_changesNothing h
  rcases guarded_cases (check s) s (.next (s.answered (value s))) with ⟨f, faults⟩ | ⟨passes, answers⟩
  · exact ⟨_, _, (run s).trans faults, rfl, fun noFault => nomatch noFault⟩
  · refine ⟨_, _, (run s).trans answers, rfl, fun _ => ⟨rfl, rfl, ?_⟩⟩
    obtain ⟨sameCheck, sameValue⟩ := indep s (value s)
    rw [run, sameCheck, sameValue, passes]
    rfl

end Sys2Proof.Machine

/-! ## Channels a command does not name (20_memory.md R84; 43_scanner.md R225) -/

namespace Sys2Proof.Machine

/-! ### No such channel is written -/

/-- The channel an element is a part of, if it is a part of one. -/
def Element.channel : Element → Option Nat
  | .openCap q | .ring q | .src q | .snk q => some q
  | .addr | .crcAcc | .faultstat | .array | .dirty | .owner | .stage => none

/-- A command that may write a part of a channel names the channel (10_state.md R50). -/
theorem channelOf_of_mem_mayWrite {q : Nat} (i : Instr) :
    ∀ e ∈ mayWrite i, e.channel = some q → channelOf i = some q := by
  cases i <;> simp [mayWrite, channelOf, Element.channel]

/-- A channel is its columns of the access table. -/
theorem State.chan_eq_of_same {s t : State} {q : Nat} (openCap : (Element.openCap q).Same s t)
    (ring : (Element.ring q).Same s t) (src : (Element.src q).Same s t)
    (snk : (Element.snk q).Same s t) : t.chan q = s.chan q := by
  obtain ⟨isOpen, cap⟩ := openCap
  obtain ⟨slot, head, count⟩ := ring
  have sameRing : (t.chan q).ring = (s.chan q).ring :=
    RingBuf.mk.injEq .. ▸ ⟨cap, slot, head, count⟩
  exact Channel.mk.injEq .. ▸ ⟨isOpen, sameRing, src, snk⟩

theorem exec_chan_of_not_named {i : Instr} {s t : State} {q : Nat} (notNamed : channelOf i ≠ some q)
    (h : exec i s = .next t) : t.chan q = s.chan q := by
  have kept {e : Element} (part : e.channel = some q) : e ∉ mayWrite i :=
    fun written => notNamed (channelOf_of_mem_mayWrite i e written part)
  rcases exec_next h with ⟨f, rfl⟩ | ⟨u, st, v, rfl, effect, -⟩
  · rfl
  · exact State.chan_eq_of_same (t := u) (effect.same (kept rfl)) (effect.same (kept rfl))
      (effect.same (kept rfl)) (effect.same (kept rfl))

/-! ### No such channel is read -/

/-- The answer with channel `q` of its next state replaced. -/
def answerWithChan (q : Nat) (c : Channel) : Answer → Answer
  | .next t => .next (t.setChan q c)
  | other => other

section
variable {q : Nat} {c : Channel} {s : State}

theorem State.setChan_comm {p : Nat} (d : Channel) (other : p ≠ q) :
    (s.setChan q c).setChan p d = (s.setChan p d).setChan q c := by
  simp [State.setChan, List.set_comm _ _ other]

theorem State.setRing_setChan_comm {p : Nat} (r : RingBuf) (other : p ≠ q) :
    (s.setChan q c).setRing p r = (s.setRing p r).setChan q c := by
  rw [State.setRing, State.chan_setChan_ne s c other.symm, State.setChan_comm _ other]; rfl

theorem State.portFault_setChan_ne {p : Nat} (other : p ≠ q) :
    (s.setChan q c).portFault p = s.portFault p := by
  rw [State.portFault, State.chan_setChan_ne s c other.symm]; rfl

theorem openFault_setChan_ne {p : Nat} (n : Nat) (other : p ≠ q) :
    openFault p n (s.setChan q c) = openFault p n s := by
  rw [openFault, State.chan_setChan_ne s c other.symm]; rfl

/-- A guarded command carries the replacement over if what follows its check does: a fault does. -/
theorem guarded_setChan {k k' : Answer} (check : Option FaultCode) (hk : k' = answerWithChan q c k) :
    guarded check (s.setChan q c) k' = answerWithChan q c (guarded check s k) := by
  subst hk
  cases check <;> rfl

theorem ite_setChan {a : Prop} [Decidable a] {k k' l l' : Answer}
    (hk : k' = answerWithChan q c k) (hl : l' = answerWithChan q c l) :
    (if a then k' else l') = answerWithChan q c (if a then k else l) := by
  rw [apply_ite (answerWithChan q c), hk, hl]

/-! ### The commands on another channel -/

variable {p : Byte} (other : chanNo p ≠ q)
include other

theorem execPortOpen_setChan (n : Half) :
    execPortOpen p n (s.setChan q c) = answerWithChan q c (execPortOpen p n s) := by
  simp only [execPortOpen, openFault_setChan_ne _ other, State.chan_setChan_ne s c other.symm,
    State.setChan_comm _ other]
  exact guarded_setChan _ rfl

theorem execPortClose_setChan :
    execPortClose p (s.setChan q c) = answerWithChan q c (execPortClose p s) := by
  simp only [execPortClose, State.portFault_setChan_ne other, State.chan_setChan_ne s c other.symm,
    State.setChan_comm _ other]
  exact guarded_setChan _ rfl

theorem execRbPush_setChan (b : Byte) :
    execRbPush p b (s.setChan q c) = answerWithChan q c (execRbPush p b s) := by
  simp only [execRbPush, State.portFault_setChan_ne other, State.chan_setChan_ne s c other.symm,
    State.setRing_setChan_comm _ other]
  exact guarded_setChan _ (ite_setChan rfl rfl)

theorem execRbPop_setChan : execRbPop p (s.setChan q c) = answerWithChan q c (execRbPop p s) := by
  simp only [execRbPop, State.portFault_setChan_ne other, State.chan_setChan_ne s c other.symm,
    State.setRing_setChan_comm _ other]
  exact guarded_setChan _ rfl

theorem execRbPeek_setChan (i : Half) :
    execRbPeek p i (s.setChan q c) = answerWithChan q c (execRbPeek p i s) := by
  simp only [execRbPeek, State.portFault_setChan_ne other, State.chan_setChan_ne s c other.symm]
  exact guarded_setChan _ rfl

theorem ringQuery_setChan (read : RingBuf → Half) :
    ringQuery p read (s.setChan q c) = answerWithChan q c (ringQuery p read s) := by
  simp only [ringQuery, State.portFault_setChan_ne other, State.chan_setChan_ne s c other.symm]
  exact guarded_setChan _ rfl

theorem execScan_setChan : execScan p (s.setChan q c) = answerWithChan q c (execScan p s) := by
  simp only [execScan, State.portFault_setChan_ne other, State.chan_setChan_ne s c other.symm,
    State.setChan_comm _ other]
  exact guarded_setChan _ rfl

theorem execLimit_setChan (i : Half) :
    execLimit i p (s.setChan q c) = answerWithChan q c (execLimit i p s) := by
  simp only [execLimit, State.portFault_setChan_ne other]
  exact guarded_setChan _ (ite_setChan rfl rfl)

theorem execSend_setChan (d : Byte) :
    execSend p d (s.setChan q c) = answerWithChan q c (execSend p d s) := by
  simp only [execSend, State.portFault_setChan_ne other, State.chan_setChan_ne s c other.symm,
    State.setChan_comm _ other]
  exact guarded_setChan _ rfl

end

/-- A command does the same to everything else, whatever a channel it does not name holds. -/
theorem exec_setChan {i : Instr} {q : Nat} (notNamed : channelOf i ≠ some q) (s : State)
    (c : Channel) : exec i (s.setChan q c) = answerWithChan q c (exec i s) := by
  have other {p : Byte} (h : some p.toNat ≠ some q) : chanNo p ≠ q := mt (congrArg some) h
  cases i with
  | nop | init | rdFault | msbS | lsbS | msbU | lsbU | joinS | joinU | crcInit | crcByte | crcRead
  | clearPkt => rfl
  | rdArray | rdFlag => exact guarded_setChan _ rfl
  | queue => exact ite_setChan rfl rfl
  | portOpen p n => exact execPortOpen_setChan (other notNamed) n
  | portClose p => exact execPortClose_setChan (other notNamed)
  | rbPush p b => exact execRbPush_setChan (other notNamed) b
  | rbPop p => exact execRbPop_setChan (other notNamed)
  | rbPeek p a => exact execRbPeek_setChan (other notNamed) a
  | rbSize p => exact ringQuery_setChan (other notNamed) fun r => countResult r.count
  | rbEmpty p => exact ringQuery_setChan (other notNamed) fun r => boolResult (r.count == 0)
  | rbFull p => exact ringQuery_setChan (other notNamed) fun r => boolResult (r.count == r.cap)
  | scan p => exact execScan_setChan (other notNamed)
  | limit a p => exact execLimit_setChan (other notNamed) a
  | send p d => exact execSend_setChan (other notNamed) d

/-- Settles O24: such a channel is not written, by the access table, and not read, by `exec_setChan`. -/
theorem channelsAreIndependent : Obligations.ChannelsAreIndependent := by
  intro i s t q c notNamed h
  refine ⟨exec_chan_of_not_named notNamed h, (exec_setChan notNamed s c).trans ?_⟩
  rw [h]
  rfl

end Sys2Proof.Machine

/-! ## Command words and the opcode map (30_encoding.md R101 to R106) -/

namespace Sys2Proof

/-! ### Commands to words and back -/

/-- Settles O1, by the fields of each command's word; a byte operand is the low byte of its field. -/
theorem decodeOfEncodeIsTheCommand : Obligations.DecodeOfEncodeIsTheCommand := by
  intro i
  cases i with
  | nop | rdFault | crcInit | crcRead | clearPkt => rfl
  | portClose | rbPop | rbSize | rbEmpty | rbFull | scan => exact decode_cmdWord ..
  | msbS | lsbS | msbU | lsbU | rdArray | rdFlag => exact decode_cmdWord ..
  | portOpen | rbPeek | limit | queue => exact decode_cmdWord ..
  | init | rbPush | joinS | joinU | crcByte | send =>
    simp [encode, decode_cmdWord, decodeFields, ifZero]

/-- Fields that decode are the fields of the command's word: an arm of the decoder gives a command
only where the bits that the command does not hold are zero. -/
theorem encode_of_decodeFields {opc p : Byte} {a b : Half} {i : Instr}
    (h : decodeFields opc p a b = .ok i) : encode i = cmdWord opc p a b := by
  unfold decodeFields at h
  split at h
  case h_28 => cases h
  all_goals
    obtain ⟨zeros, rfl⟩ := ifZero_ok.mp h
    simp only [Bool.and_eq_true, beq_iff_eq] at zeros
    simp [encode, zeros, byteField_lowByte]

/-- Settles O2: a word is its fields, and they are those of the command's word. -/
theorem encodeOfDecodeIsTheWord : Obligations.EncodeOfDecodeIsTheWord :=
  fun w _ h => (encode_of_decodeFields h).trans (cmdWord_fields w)

/-! ### Rows of the map, field by field -/

theorem cmdWord_inj {o p o' p' : Byte} {a b a' b' : Half} :
    cmdWord o p a b = cmdWord o' p' a' b' ↔ o = o' ∧ p = p' ∧ a = a' ∧ b = b' := by
  refine ⟨fun h => ?_, by rintro ⟨rfl, rfl, rfl, rfl⟩; rfl⟩
  exact ⟨by simpa using congrArg opcOf h, by simpa using congrArg pOf h,
    by simpa using congrArg aOf h, by simpa using congrArg bOf h⟩

theorem byte_and_ones (x : Byte) : x &&& 255#8 = x := BitVec.and_allOnes

theorem half_and_ones (x : Half) : x &&& 65535#16 = x := BitVec.and_allOnes

theorem highByte_and_ff00 (a : Half) : highByte (a &&& 65280#16) = highByte a :=
  BitVec.extractLsb'_and.trans (byte_and_ones _)

/-- The mask of a byte operand's field selects its high byte. -/
theorem highByte_eq_zero_iff_and (a : Half) : highByte a = 0#8 ↔ a &&& 65280#16 = 0#16 := by
  refine ⟨fun h => ?_, fun h => ?_⟩
  · rw [← byteField_lowByte h, byteField_and_high]
  · rw [← highByte_and_ff00, h]; rfl

/-- A row's mask holds the whole opcode, and its match value nothing else. -/
theorem opRows_opcode :
    ∀ r ∈ opRows, opcOf r.mask = 255#8 ∧ r.pat = cmdWord (opcOf r.pat) 0 0 0 := by decide

/-- A word matches a row exactly where it has the row's opcode and zeros in the other masked bits. -/
theorem OpRow.matchesWord_iff {r : OpRow} (hr : r ∈ opRows) (w : CmdWord) :
    r.matchesWord w = true ↔ opcOf w = opcOf r.pat ∧
      pOf w &&& pOf r.mask = 0 ∧ aOf w &&& aOf r.mask = 0 ∧ bOf w &&& bOf r.mask = 0 := by
  obtain ⟨maskOpc, patFields⟩ := opRows_opcode r hr
  rw [OpRow.matchesWord, beq_iff_eq]
  conv_lhs =>
    rw [← cmdWord_fields w, ← cmdWord_fields r.mask, patFields, cmdWord_and, cmdWord_inj, maskOpc,
      byte_and_ones]

/-! ### The decoder against the map -/

/-- The arm of the decoder for a row's opcode tests the bits of the row's mask. -/
theorem decodeFields_of_row {r : OpRow} (hr : r ∈ opRows) (p : Byte) (a b : Half) :
    ∃ zeros i, decodeFields (opcOf r.pat) p a b = ifZero zeros i ∧
      (zeros = true ↔ p &&& pOf r.mask = 0 ∧ a &&& aOf r.mask = 0 ∧ b &&& bOf r.mask = 0) := by
  simp only [opRows, controlRows, ringRows, conversionRows, crcRows, arrayRows, framerRows,
    List.mem_append, List.mem_cons, List.not_mem_nil, or_false] at hr
  casesm* _ ∨ _
  all_goals
    subst hr
    refine ⟨_, _, rfl, ?_⟩
    simp [pOf, aOf, bOf, half_and_ones, byte_and_ones, highByte_eq_zero_iff_and, and_assoc]

/-- A word with a row's opcode is a command where it matches the row, else rejected as reserved. -/
theorem decode_of_row {r : OpRow} {w : CmdWord} (hr : r ∈ opRows) (h : opcOf w = opcOf r.pat) :
    ∃ i, decode w = ifZero (r.matchesWord w) i := by
  obtain ⟨zeros, i, arm, hz⟩ := decodeFields_of_row hr (pOf w) (aOf w) (bOf w)
  have same : zeros = r.matchesWord w := by
    rw [Bool.eq_iff_iff, hz, OpRow.matchesWord_iff hr, and_iff_right h]
  exact ⟨i, by rw [decode, h, arm, same]⟩

/-- An opcode of no row is illegal, whatever the other fields are. -/
theorem decodeFields_of_no_row {opc p : Byte} {a b : Half} (h : ∀ r ∈ opRows, opcOf r.pat ≠ opc) :
    decodeFields opc p a b = .error .illegalOpcode := by
  unfold decodeFields
  split
  case h_28 => rfl
  all_goals exact absurd h (by decide)

/-- Settles O3: a word that decodes has the opcode of a row, and with a row's opcode the words that
decode are those that match the row. -/
theorem commandsAreTheWordsOfTheMap : Obligations.CommandsAreTheWordsOfTheMap := by
  refine fun w => ⟨fun ⟨i, hi⟩ => ?_, fun ⟨r, hr, hw⟩ => ?_⟩
  · by_cases h : ∃ r ∈ opRows, opcOf r.pat = opcOf w
    · obtain ⟨r, hr, opc⟩ := h
      obtain ⟨j, hj⟩ := decode_of_row hr opc.symm
      exact ⟨r, hr, beq_iff_eq.mp (ifZero_ok.mp (hj.symm.trans hi)).1⟩
    · have rejected : decode w = .error .illegalOpcode :=
        decodeFields_of_no_row fun r hr opc => h ⟨r, hr, opc⟩
      cases rejected.symm.trans hi
  · have matched : r.matchesWord w = true := beq_iff_eq.mpr hw
    obtain ⟨i, hi⟩ := decode_of_row hr ((OpRow.matchesWord_iff hr w).mp matched).1
    exact ⟨i, hi.trans (congrArg (ifZero · i) matched)⟩

end Sys2Proof

namespace Sys2Proof.Machine

/-- The ranges of free opcodes of R106 are what the rows of R105 leave. -/
theorem opcode_free_iff (opc : Byte) :
    ((0x05 ≤ opc.toNat ∧ opc.toNat ≤ 0x0F) ∨ (0x16 ≤ opc.toNat ∧ opc.toNat ≤ 0x1F) ∨
      (0x26 ≤ opc.toNat ∧ opc.toNat ≤ 0x2F) ∨ (0x33 ≤ opc.toNat ∧ opc.toNat ≤ 0x3F) ∨
      (0x41 ≤ opc.toNat ∧ opc.toNat ≤ 0x4F) ∨ (0x53 ≤ opc.toNat ∧ opc.toNat ≤ 0x5F) ∨
      (0x63 ≤ opc.toNat ∧ opc.toNat ≤ 0xFF)) ↔ ∀ r ∈ opRows, opcOf r.pat ≠ opc := by
  have opcodes : opRows.map (fun r => (opcOf r.pat).toNat) =
      [0x00, 0x01, 0x02, 0x03, 0x04, 0x10, 0x11, 0x12, 0x13, 0x14, 0x15, 0x20, 0x21, 0x22, 0x23,
        0x24, 0x25, 0x30, 0x31, 0x32, 0x40, 0x50, 0x51, 0x52, 0x60, 0x61, 0x62] := rfl
  have taken : (∀ r ∈ opRows, opcOf r.pat ≠ opc) ↔
      opc.toNat ∉ opRows.map fun r => (opcOf r.pat).toNat := by
    simp [BitVec.toNat_inj]
  have := opc.isLt
  rw [taken, opcodes]
  simp only [List.mem_cons, List.not_mem_nil, or_false, not_or]
  omega

/-- Settles O4: a free opcode is the opcode of no row, so its words are rejected as illegal. -/
theorem freeOpcodesAreIllegal : Obligations.FreeOpcodesAreIllegal := by
  refine ⟨opcode_free_iff, fun s rest opc p a b free hs => step_reject (r := .illegalOpcode) hs ?_⟩
  rw [decode_cmdWord, decodeFields_of_no_row ((opcode_free_iff opc).mp free)]

/-- Settles O5: with a row's opcode and no match, the word is rejected as reserved. -/
theorem nonzeroReservedBitsFault : Obligations.NonzeroReservedBitsFault := by
  intro s rest w r hr opc unmatched hs
  obtain ⟨i, hi⟩ := decode_of_row hr opc
  have noMatch : r.matchesWord w = false := beq_eq_false_iff_ne.mpr unmatched
  exact step_reject (r := .reserved) hs (by rw [hi, noMatch]; rfl)

/-- Settles O6: each word is decoded. -/
theorem vectorWordsAreTheirCommands : Obligations.VectorWordsAreTheirCommands :=
  ⟨rfl, rfl, rfl, rfl, rfl, rfl, rfl, rfl, rfl, rfl, rfl, rfl, rfl, rfl⟩

end Sys2Proof.Machine

/-! ## Commands and their responses (30_encoding.md R100, R104) -/

namespace Sys2Proof.Machine

theorem Response.toNat_word (r : Response) :
    r.word.toNat = r.status.code.toNat * 65536 + r.result.toNat := by
  rw [Response.word, BitVec.toNat_append, ← Nat.shiftLeft_add_eq_or_of_lt r.result.isLt,
    Nat.shiftLeft_eq]

theorem mem_checkOrder (f : FaultCode) : f ∈ checkOrder := by
  cases f <;> decide

/-- Settles O8: the codes by evaluation, and a status is `OK`, `E_STAGE_FULL` or a listed fault. -/
theorem responseWordLayout : Obligations.ResponseWordLayout := by
  refine ⟨Response.toNat_word, rfl, rfl, rfl, fun st => ?_⟩
  cases st with
  | ok => exact .inl rfl
  | stageFull => exact .inr (.inl rfl)
  | fault f => exact .inr (.inr ⟨f, mem_checkOrder f, rfl⟩)

/-- Settles O9, by what a step does with a command word. -/
theorem stepRunsTheDecodedCommand : Obligations.StepRunsTheDecodedCommand := by
  intro s rest w i hs hw
  rw [step_command hs, runWord, hw]

/-- A command faults or answers after its effect; either keeps the configuration and the inputs. -/
theorem exec_answered (i : Instr) (s : State) : ∃ t r,
    exec i s = .next t ∧ t.response = some r ∧ t.pending = s.pending ∧ t.cfg = s.cfg := by
  rcases exec_cases i s with ⟨f, h⟩ | ⟨t, st, v, h, effect, -⟩
  · exact ⟨_, _, h, rfl, rfl, rfl⟩
  · obtain ⟨cfg, pending, -, -⟩ := effect.sizes
    exact ⟨_, _, h, rfl, pending, cfg⟩

theorem runWord_next (w : CmdWord) (s : State) : ∃ t, runWord w s = .next t := by
  unfold runWord
  cases decode w with
  | ok i =>
    obtain ⟨t, -, h, -⟩ := exec_answered i s
    exact ⟨t, h⟩
  | error r => exact ⟨_, rfl⟩

theorem runInput_next (i : Input) (s : State) : ∃ t, runInput i s = .next t := by
  cases i with
  | command w => exact runWord_next w s
  | arrive | take | reset => exact ⟨_, rfl⟩

/-- Settles O11: commands by `exec_answered`, steps by their oldest input. -/
theorem everyCommandIsAnswered : Obligations.EveryCommandIsAnswered := by
  refine ⟨exec_answered, fun s => ?_⟩
  cases h : s.pending with
  | nil => exact ⟨s, step_of_pending_nil h⟩
  | cons i rest => exact step_of_pending_cons h ▸ runInput_next i _

end Sys2Proof.Machine

/-! ## The assembler and `CRC_OF` (30_encoding.md R107, R108) -/

namespace Sys2Proof.Machine

/-! ### `CRC_OF` run -/

theorem runAll_cons {i : Instr} {is : List Instr} {s t u : State} {r : Response} {rs : List Response}
    (h : exec i s = .next t) (hr : t.response = some r) (run : runAll is t = some (rs, u)) :
    runAll (i :: is) s = some (r :: rs, u) := by
  simp [runAll, h, hr, run]

/-- A sequence of `CRC_BYTE` folds `CRC_STEP` over its bytes (42_crc8.md R191, R195). -/
theorem runAll_crcByte (l : List Byte) (s : State) :
    ∃ rs t, runAll (l.map .crcByte) s = some (rs, t) ∧ rs.length = l.length ∧
      t = { s with crcAcc := l.foldl crcStep s.crcAcc, response := t.response } := by
  induction l generalizing s with
  | nil => exact ⟨[], s, rfl, rfl, rfl⟩
  | cons b l ih =>
    obtain ⟨rs, t, run, len, ht⟩ :=
      ih ((s.setCrcAcc (crcStep s.crcAcc b)).respond .ok (byteResult (crcStep s.crcAcc b)))
    exact ⟨_, t, runAll_cons rfl rfl run, congrArg (· + 1) len, ht⟩

/-- Settles O43: `CRC_INIT` sets the start of the fold that the `CRC_BYTE`s continue. -/
theorem crcOfAccumulatesTheCrc : Obligations.CrcOfAccumulatesTheCrc := by
  intro l s
  obtain ⟨rs, t, run, len, ht⟩ := runAll_crcByte l ((s.setCrcAcc crcStart).respond .ok 0)
  exact ⟨_, t, runAll_cons rfl rfl run, congrArg (· + 1) len, ht⟩

/-! ### Operands in range and out of range -/

/-- `read` accepts the numbers in the range `ok`, as `val` gives them, and no others. -/
structure ReadsRange {α : Type} (ok : Int → Prop) (read : Int → Option α) (val : Int → α) : Prop where
  inRange : ∀ n, ok n → read n = some (val n)
  outOfRange : ∀ n, ¬ ok n → read n = none

theorem asmByte_readsRange : ReadsRange ByteRange asmByte (BitVec.ofInt 8) :=
  ⟨fun _ h => if_pos h, fun _ h => if_neg h⟩

theorem asmHalf_readsRange : ReadsRange HalfRange asmHalf (BitVec.ofInt 16) :=
  ⟨fun _ h => if_pos h, fun _ h => if_neg h⟩

theorem asmSigned_readsRange : ReadsRange SignedRange asmSigned (BitVec.ofInt 16) :=
  ⟨fun _ h => if_pos h, fun _ h => if_neg h⟩

section
variable {α β : Type} {ok ok' : Int → Prop} {read : Int → Option α} {read' : Int → Option β}
  {val : Int → α} {val' : Int → β} {name : String}

theorem ReadsRange.assemblesOne {mk : α → Instr} {w : Int → CmdWord} (h : ReadsRange ok read val)
    (arm : ∀ n, assembleOps name [n] = asmOne (read n) mk)
    (word : ∀ n, ok n → encode (mk (val n)) = w n) : AssemblesOne name ok w :=
  assemblesOne_of arm (fun n hn => ⟨_, h.inRange n hn, word n hn⟩) h.outOfRange

theorem ReadsRange.assemblesTwo {mk : α → β → Instr} {w : Int → Int → CmdWord}
    (h : ReadsRange ok read val) (h' : ReadsRange ok' read' val')
    (arm : ∀ m n, assembleOps name [m, n] = asmTwo (read m) (read' n) mk)
    (word : ∀ m n, ok m → ok' n → encode (mk (val m) (val' n)) = w m n) :
    AssemblesTwo name ok ok' w :=
  assemblesTwo_of arm
    (fun m n hm hn => ⟨_, _, h.inRange m hm, h'.inRange n hn, word m n hm hn⟩)
    h.outOfRange h'.outOfRange

end

/-! ### The words -/

theorem cmdWord_byteOperand {opc p : Byte} {b : Half} (n : Int) (h : ByteRange n) :
    cmdWord opc p (byteField (BitVec.ofInt 8 n)) b = cmdWord opc p (BitVec.ofInt 16 n) b := by
  rw [byteField_ofInt h]

theorem cmdWord_byteOperands {opc p : Byte} (m n : Int) (hm : ByteRange m) (hn : ByteRange n) :
    cmdWord opc p (byteField (BitVec.ofInt 8 m)) (byteField (BitVec.ofInt 8 n)) =
      cmdWord opc p (BitVec.ofInt 16 m) (BitVec.ofInt 16 n) := by
  rw [byteField_ofInt hm, byteField_ofInt hn]

theorem asmWords_crcOf {l : List Int} (h : ∀ n ∈ l, ByteRange n) :
    asmWords "CRC_OF" l =
      some (cmdWord 0x30 0 0 0 :: l.map fun n => cmdWord 0x31 0 (BitVec.ofInt 16 n) 0) := by
  simp only [asmWords, assembleOps_crcOf, mapM_asmByte h, crcOf, Option.map_some, List.map_cons,
    List.map_map]
  exact congrArg (some <| _ :: ·) (List.map_congr_left fun n hn => cmdWord_byteOperand n (h n hn))

theorem asmWords_crcOf_none {l : List Int} (h : ∃ n ∈ l, ¬ ByteRange n) :
    asmWords "CRC_OF" l = none := by
  obtain ⟨n, hn, out⟩ := h
  rw [asmWords, assembleOps_crcOf, mapM_asmByte_none hn out]; rfl

/-- A signed 16-bit field holds the two's complement of its number (R107). -/
theorem toInt_ofInt_signed (n : Int) (h : -32768 ≤ n ∧ n ≤ 32767) :
    (BitVec.ofInt 16 n).toInt = n := by
  rw [BitVec.toInt_ofInt]
  exact Int.bmod_eq_of_le (by omega) (by omega)

theorem toNat_ofInt_unsigned (n : Int) (h : HalfRange n) : ((BitVec.ofInt 16 n).toNat : Int) = n := by
  obtain ⟨h0, h1⟩ := h
  rw [BitVec.toNat_ofInt]
  omega

/-- Settles O57: a mnemonic's arm reads its operands in their ranges, and its word holds them in its
fields; a byte operand in a 16-bit field is its number. -/
theorem assemblerRangesAndOrder : Obligations.AssemblerRangesAndOrder := by
  refine ⟨⟨rfl, rfl, rfl, rfl, rfl⟩, ⟨?init, ?crcByte⟩, ?channel, ?half,
    ⟨?portOpen, ?rbPush, ?rbPeek, ?joinS, ?joinU, ?limit, ?queue, ?send⟩,
    fun l => ⟨asmWords_crcOf, asmWords_crcOf_none⟩, toInt_ofInt_signed, toNat_ofInt_unsigned⟩
  case init | crcByte =>
    exact asmByte_readsRange.assemblesOne (fun _ => rfl) cmdWord_byteOperand
  case channel =>
    refine ⟨?_, ?_, ?_, ?_, ?_, ?_⟩ <;>
      exact asmByte_readsRange.assemblesOne (fun _ => rfl) fun _ _ => rfl
  case half =>
    refine ⟨?msbS, ?lsbS, ?msbU, ?lsbU, ?rdArray, ?rdFlag⟩
    case msbS | lsbS => exact asmSigned_readsRange.assemblesOne (fun _ => rfl) fun _ _ => rfl
    case msbU | lsbU | rdArray | rdFlag =>
      exact asmHalf_readsRange.assemblesOne (fun _ => rfl) fun _ _ => rfl
  case portOpen | rbPeek =>
    exact asmByte_readsRange.assemblesTwo asmHalf_readsRange (fun _ _ => rfl) fun _ _ _ _ => rfl
  case rbPush | send =>
    exact asmByte_readsRange.assemblesTwo asmByte_readsRange (fun _ _ => rfl)
      fun _ n _ => cmdWord_byteOperand n
  case joinS | joinU =>
    exact asmByte_readsRange.assemblesTwo asmByte_readsRange (fun _ _ => rfl) cmdWord_byteOperands
  case limit =>
    exact asmHalf_readsRange.assemblesTwo asmByte_readsRange (fun _ _ => rfl) fun _ _ _ _ => rfl
  case queue =>
    exact asmHalf_readsRange.assemblesTwo asmSigned_readsRange (fun _ _ => rfl) fun _ _ _ _ => rfl

end Sys2Proof.Machine

/-! ## Ring-buffer commands on the slots (40_ring_buffer.md R140 to R145) -/

namespace Sys2Proof

/-- The zero test of a byte operand's field (30_encoding.md R102, `A8` and `B8`), as a bound. -/
theorem highByte_beq_zero (v : Half) : (highByte v == 0) = decide (v.toNat < 256) := by
  rw [Bool.eq_iff_iff, beq_iff_eq, decide_eq_true_iff]
  exact highByte_eq_zero_iff v

end Sys2Proof

namespace Sys2Proof.Machine

/-- A boolean result that compares two numbers (30_encoding.md R104). -/
theorem boolResult_beq (m n : Nat) : boolResult (m == n) = if m = n then 1 else 0 := by
  simp [boolResult]

/-- A count below 65536 is returned as it is (40_ring_buffer.md R143). -/
theorem toNat_countResult {n : Nat} (h : n < 65536) : (countResult n).toNat = n := by
  rw [countResult, BitVec.toNat_ofNat]
  exact Nat.mod_eq_of_lt h

/-- The slot of a logical position holds the byte a look at the position reads. -/
theorem RingBuf.Wf.slot_getElem? {m : Nat} {r : RingBuf} (h : r.Wf m) (i : Nat) :
    r.slot[(r.head + i) % r.cap]? = some (r.peek i) := by
  obtain ⟨⟨capPos, -⟩, slots, -, -⟩ := h
  have inRange : (r.head + i) % r.cap < r.slot.length := by
    rw [slots]; exact Nat.mod_lt _ capPos
  simp [RingBuf.peek, inRange]

/-- A buffer's count fits in 16 bits: a capacity is at most `RB_MAXCAP` (00_scope.md R8). -/
theorem State.Inv.count_lt {s : State} {p : Byte} (hs : s.Inv) (hp : s.PortOk p) :
    (s.chan p.toNat).ring.count < 65536 := by
  obtain ⟨⟨-, capLe⟩, -, -, countLe⟩ := hs.ring_wf hp
  obtain ⟨⟨-, -, -, -, maxCapLe⟩, -⟩ := hs
  omega

/-- A command that makes the channel check and no other. -/
theorem portChecks_of_portFault {i : Instr} {p : Byte} {s : State} {k : Answer}
    (h : exec i s = guarded (s.portFault p.toNat) s k) : PortChecks i p s :=
  portChecks_of_guarded (more := none) (h.trans (by rw [Option.or_none]))

section
variable {s : State} {p : Byte}

theorem exec_rbPush_of_full (hp : s.PortOk p) (b : Byte)
    (full : (s.chan p.toNat).ring.count = (s.chan p.toNat).ring.cap) :
    exec (.rbPush p b) s = .next (s.answered 0) := by
  change guarded (s.portFault (chanNo p)) s _ = _
  rw [hp.portFault]
  exact if_pos full

theorem rbPop_faults_of_empty (hp : s.PortOk p) (empty : (s.chan p.toNat).ring.count = 0) :
    FaultsWith (.rbPop p) s .rbEmpty := by
  change guarded (.or _ (faultUnless ((s.chan p.toNat).ring.count != 0) _)) s _ = _
  rw [guarded_of_portOk hp, empty]
  exact guarded_some _ _ _

theorem rbPeek_faults_of_le (hp : s.PortOk p) {i : Half}
    (outOfRange : (s.chan p.toNat).ring.count ≤ i.toNat) :
    FaultsWith (.rbPeek p i) s .peekRange := by
  change guarded (.or _ (faultUnless (decide (i.toNat < (s.chan p.toNat).ring.count)) _)) s _ = _
  rw [guarded_of_portOk hp, decide_eq_false (Nat.not_lt.mpr outOfRange)]
  exact guarded_some _ _ _

/-- A query of an open channel answers what it reads of the buffer, and changes nothing. -/
theorem ringQuery_of_portOk (hp : s.PortOk p) (read : RingBuf → Half) :
    ringQuery p read s = .next (s.answered (read (s.chan p.toNat).ring)) := by
  rw [ringQuery, hp.portFault]
  rfl

theorem exec_rbSize_of_portOk (hp : s.PortOk p) :
    exec (.rbSize p) s = .next (s.answered (countResult (s.chan p.toNat).ring.count)) :=
  ringQuery_of_portOk hp fun r => countResult r.count

theorem exec_rbEmpty_of_portOk (hp : s.PortOk p) : exec (.rbEmpty p) s =
    .next (s.answered (if (s.chan p.toNat).ring.count = 0 then 1 else 0)) := by
  rw [← boolResult_beq]
  exact ringQuery_of_portOk hp fun r => boolResult (r.count == 0)

theorem exec_rbFull_of_portOk (hp : s.PortOk p) : exec (.rbFull p) s = .next (s.answered
    (if (s.chan p.toNat).ring.count = (s.chan p.toNat).ring.cap then 1 else 0)) := by
  rw [← boolResult_beq]
  exact ringQuery_of_portOk hp fun r => boolResult (r.count == r.cap)

end

/-- Settles O30: the two sides of the test for a full buffer. -/
theorem rbPushEnqueuesOrDrops : Obligations.RbPushEnqueuesOrDrops := by
  refine ⟨decodesAs_of_fields fun p a b => ?_, fun p byte s =>
    ⟨portChecks_of_portFault rfl, fun hp full => exec_rbPush_of_full hp byte full,
      fun hp notFull => ?_⟩⟩
  · rw [← highByte_beq_zero, ← lowByte_eq_setWidth]; rfl
  · change guarded (s.portFault (chanNo p)) s _ = _
    rw [hp.portFault]
    exact if_neg notFull

/-- Settles O31: the oldest byte stands in the slot of logical position 0. -/
theorem rbPopTakesTheOldestByte : Obligations.RbPopTakesTheOldestByte := by
  refine ⟨decodesAs_of_fields fun _ _ _ => rfl, fun p s =>
    ⟨portChecks_of_guarded rfl, rbPop_faults_of_empty, fun hs hp nonempty =>
      ⟨_, ?_, exec_rbPop_of_nonempty hp nonempty⟩⟩⟩
  have ring := hs.ring_wf hp
  obtain ⟨-, -, headLt, -⟩ := id ring
  rw [← ring.slot_getElem?, Nat.add_zero, Nat.mod_eq_of_lt headLt]

/-- Settles O32: the byte looked at stands in the slot of its logical position. -/
theorem rbPeekReadsAPosition : Obligations.RbPeekReadsAPosition :=
  ⟨decodesAs_of_fields fun _ _ _ => rfl, fun _ i _ =>
    ⟨portChecks_of_guarded rfl, fun hp => rbPeek_faults_of_le hp, fun hs hp inRange =>
      ⟨_, (hs.ring_wf hp).slot_getElem? i.toNat, exec_rbPeek_of_lt hp inRange⟩⟩⟩

/-- Settles O33: each query is a `ringQuery`, and a count fits in 16 bits. -/
theorem ringQueriesReadTheCount : Obligations.RingQueriesReadTheCount :=
  ⟨decodesAs_of_fields fun _ _ _ => rfl, decodesAs_of_fields fun _ _ _ => rfl,
    decodesAs_of_fields fun _ _ _ => rfl, fun _ _ =>
      ⟨portChecks_of_portFault rfl, portChecks_of_portFault rfl, portChecks_of_portFault rfl,
        fun hs hp => ⟨_, toNat_countResult (hs.count_lt hp), exec_rbSize_of_portOk hp⟩,
        exec_rbEmpty_of_portOk, exec_rbFull_of_portOk⟩⟩

end Sys2Proof.Machine

/-! ## Ring-buffer commands in sequence (40_ring_buffer.md R146) -/

namespace Sys2Proof.Machine

/-- A run of at least one command: the first answers, and the rest run from where it leads. -/
theorem runAll_cons_some {i : Instr} {is : List Instr} {s u : State} {rs : List Response}
    (h : runAll (i :: is) s = some (rs, u)) : ∃ t r rest, exec i s = .next t ∧
      t.response = some r ∧ runAll is t = some (rest, u) ∧ rs = r :: rest := by
  obtain ⟨t, r, next, response, -⟩ := exec_answered i s
  simp only [runAll, next, response] at h
  cases run : runAll is t with
  | none => rw [run] at h; cases h
  | some x =>
    rw [run] at h
    obtain ⟨rfl, rfl⟩ := Prod.mk.inj (Option.some.inj h)
    exact ⟨t, r, x.1, next, response, run, rfl⟩

theorem poppedBytes_cons (op : Option Byte) (ops : List (Option Byte)) (r : Response)
    (rs : List Response) :
    poppedBytes (op :: ops) (r :: rs) = poppedBytes [op] [r] ++ poppedBytes ops rs := by
  cases op <;> rfl

theorem pushedBytes_cons (op : Option Byte) (ops : List (Option Byte)) :
    pushedBytes (op :: ops) = pushedBytes [op] ++ pushedBytes ops := by
  cases op <;> rfl

theorem Response.faults_of_accepted {op : Option Byte} {r : Response} (h : accepted op r = true) :
    r.faults = false := by
  cases op with
  | none => rw [Response.faults, beq_iff_eq.mp h]
  | some b => rw [Response.faults, beq_iff_eq.mp h]

section
variable {p : Byte} {s t : State}

/-- An accepted push or pop keeps the invariant, the open channel and its capacity. -/
theorem ringOp_keeps {op : Option Byte} {r : Response} (hs : s.Inv) (hp : s.PortOk p)
    (run : exec (ringOp p op) s = .next t) (hr : t.response = some r)
    (acc : accepted op r = true) :
    t.Inv ∧ t.PortOk p ∧ (t.chan p.toNat).ring.cap = (s.chan p.toNat).ring.cap := by
  obtain ⟨same, cfg, -⟩ :=
    commandsWriteOnlyTheirElements _ _ _ _ run hr (Response.faults_of_accepted acc)
  have kept : .openCap p.toNat ∉ mayWrite (ringOp p op) := by cases op <;> simp [ringOp, mayWrite]
  obtain ⟨isOpen, cap⟩ := same _ kept
  exact ⟨exec_keeps_inv hs run, ⟨cfg ▸ hp.1, isOpen.trans hp.2⟩, cap⟩

/-- First in, first out, for one accepted operation: what it popped and what is then held are what
was held and what it pushed. -/
theorem ringOp_content {op : Option Byte} {r : Response} (hs : s.Inv) (hp : s.PortOk p)
    (run : exec (ringOp p op) s = .next t) (hr : t.response = some r)
    (acc : accepted op r = true) :
    poppedBytes [op] [r] ++ (t.chan p.toNat).ring.q =
      (s.chan p.toNat).ring.q ++ pushedBytes [op] := by
  obtain ⟨push, pop, -⟩ := ringCommandsActOnTheQueue p s hs hp
  obtain ⟨-, -, -, countLe⟩ := hs.ring_wf hp
  cases op with
  | some b =>
    by_cases full : (s.chan p.toNat).ring.count = (s.chan p.toNat).ring.cap
    · obtain rfl := Host.Outcome.next.inj ((exec_rbPush_of_full hp b full).symm.trans run)
      obtain rfl := Option.some.inj hr
      cases acc
    · obtain ⟨u, next, -, content, -⟩ := push b (by rw [RingBuf.q_length]; omega)
      obtain rfl := Host.Outcome.next.inj (next.symm.trans run)
      exact content
  | none =>
    by_cases empty : (s.chan p.toNat).ring.count = 0
    · obtain rfl := Host.Outcome.next.inj ((rbPop_faults_of_empty hp empty).symm.trans run)
      obtain rfl := Option.some.inj hr
      cases acc
    · have held := RingBuf.q_cons empty
      obtain ⟨u, next, response, content, -⟩ := pop _ _ held
      obtain rfl := Host.Outcome.next.inj (next.symm.trans run)
      obtain rfl := Option.some.inj (response.symm.trans hr)
      rw [content, held]
      simp [poppedBytes, pushedBytes]

/-- First in, first out, for accepted operations one after the other. -/
theorem runAll_content {ops : List (Option Byte)} {rs : List Response} (hs : s.Inv)
    (hp : s.PortOk p) (run : runAll (ops.map (ringOp p)) s = some (rs, t))
    (acc : ∀ x ∈ ops.zip rs, accepted x.1 x.2 = true) :
    t.Inv ∧ t.PortOk p ∧ poppedBytes ops rs ++ (t.chan p.toNat).ring.q =
      (s.chan p.toNat).ring.q ++ pushedBytes ops := by
  induction ops generalizing s rs with
  | nil =>
    obtain ⟨rfl, rfl⟩ := Prod.mk.inj (Option.some.inj run)
    exact ⟨hs, hp, (List.append_nil _).symm⟩
  | cons op ops ih =>
    obtain ⟨u, r, rest, next, response, runRest, rfl⟩ := runAll_cons_some run
    obtain ⟨first, others⟩ := List.forall_mem_cons.mp acc
    obtain ⟨hu, hpu, -⟩ := ringOp_keeps hs hp next response first
    obtain ⟨ht, hpt, content⟩ := ih hu hpu runRest others
    refine ⟨ht, hpt, ?_⟩
    rw [poppedBytes_cons, pushedBytes_cons, List.append_assoc, content, ← List.append_assoc,
      ringOp_content hs hp next response first, List.append_assoc]

/-- Pushes of a list for which there is room are all accepted, and append the list. -/
theorem runAll_rbPush_of_room (l : List Byte) (hs : s.Inv) (hp : s.PortOk p)
    (room : (s.chan p.toNat).ring.q.length + l.length ≤ (s.chan p.toNat).ring.cap) :
    ∃ t, runAll (l.map (.rbPush p)) s =
        some (l.map fun _ => { status := .ok, result := 1 }, t) ∧ t.Inv ∧ t.PortOk p ∧
      (t.chan p.toNat).ring.cap = (s.chan p.toNat).ring.cap ∧
      (t.chan p.toNat).ring.q = (s.chan p.toNat).ring.q ++ l := by
  induction l generalizing s with
  | nil => exact ⟨s, rfl, hs, hp, rfl, (List.append_nil _).symm⟩
  | cons b l ih =>
    obtain ⟨push, -⟩ := ringCommandsActOnTheQueue p s hs hp
    rw [List.length_cons] at room
    obtain ⟨u, next, response, content, -⟩ := push b (by omega)
    obtain ⟨hu, hpu, cap⟩ := ringOp_keeps (op := some b) hs hp next response rfl
    obtain ⟨t, run, ht, hpt, capT, contentT⟩ :=
      ih hu hpu (by rw [content, cap, List.length_append, List.length_singleton]; omega)
    refine ⟨t, runAll_cons next response run, ht, hpt, capT.trans cap, ?_⟩
    rw [contentT, content, List.append_assoc, List.singleton_append]

end

/-- Settles O35: `runAll_content` and `runAll_rbPush_of_room` from an empty buffer; a look at a
position reads the content. -/
theorem ringBufferLaws : Obligations.RingBufferLaws := by
  refine fun p s hs hp => ⟨fun full b => exec_rbPush_of_full hp b full,
    fun empty => ⟨fun ops rs t run acc => ?_, fun l fits => ?_⟩⟩
  · obtain ⟨ht, hpt, content⟩ := runAll_content hs hp run acc
    rw [empty, List.nil_append] at content
    obtain ⟨-, -, peek⟩ := ringCommandsActOnTheQueue p t ht hpt
    refine ⟨content, fun i b _ read => peek i b ?_⟩
    rw [← content, List.getElem?_append_right (Nat.le_add_right _ _), Nat.add_sub_cancel_left] at read
    exact read
  · obtain ⟨t, run, ht, hpt, cap, content⟩ :=
      runAll_rbPush_of_room l hs hp (by rw [empty, List.length_nil, Nat.zero_add]; exact fits)
    rw [empty, List.nil_append] at content
    obtain ⟨-, -, peek⟩ := ringCommandsActOnTheQueue p t ht hpt
    refine ⟨t, run, ?_, fun i b read => peek i b (content ▸ read)⟩
    rw [exec_rbFull_of_portOk hpt, ← RingBuf.q_length, content, cap]

end Sys2Proof.Machine

/-! ## A pushed byte before a scan (40_ring_buffer.md R147) -/

namespace Sys2Proof.Machine

/-- `SCAN` behind its checks (43_scanner.md R210): the drain, then the loop on what it leaves. -/
theorem exec_scan_of_valid {s : State} {p : Byte} (hp : s.PortOk p) (valid : s.addrValid = true) :
    exec (.scan p) s =
      let d := drain (s.chan p.toNat).ring (s.chan p.toNat).src
      let w := scanBuffer s.cfg s.localAddr p.toNat d.1 s.array
      .next (((s.setChan p.toNat { s.chan p.toNat with ring := w.ring, src := d.2 }).setArray
        w.array).respond .ok (countResult w.frames)) := by
  change guarded (.or _ s.addrFault) s _ = _
  rw [guarded_of_portOk hp, State.addrFault, valid]
  rfl

/-- The response of the command before is not seen by a scan. -/
theorem exec_scan_respond {s : State} {p : Byte} (hp : s.PortOk p) (valid : s.addrValid = true)
    (st : Status) (v : Half) : exec (.scan p) (s.respond st v) = exec (.scan p) s := by
  rw [exec_scan_of_valid (s := s.respond st v) hp valid, exec_scan_of_valid hp valid]
  rfl

theorem State.setChan_setChan (s : State) (p : Nat) (c d : Channel) :
    (s.setChan p c).setChan p d = s.setChan p d := by
  simp [State.setChan]

/-- An existing channel replaced by an open one is usable. -/
theorem State.Inv.portOk_setChan {s : State} {p : Byte} {c : Channel} (hs : s.Inv)
    (hp : p.toNat < s.cfg.nports) (isOpen : c.isOpen = true) : (s.setChan p.toNat c).PortOk p :=
  ⟨hp, by rw [State.chan_setChan_self _ _ (hs.chans_length ▸ hp), isOpen]⟩

/-- A scan of a channel that was replaced sees of it the open bit and what the drain makes of its
buffer and source. -/
theorem exec_scan_setChan_congr {s : State} {p : Byte} {c d : Channel} (hs : s.Inv)
    (hp : p.toNat < s.cfg.nports) (valid : s.addrValid = true) (openC : c.isOpen = true)
    (openD : d.isOpen = true) (snk : c.snk = d.snk)
    (drained : drain c.ring c.src = drain d.ring d.src) :
    exec (.scan p) (s.setChan p.toNat c) = exec (.scan p) (s.setChan p.toNat d) := by
  have back (x : Channel) : (s.setChan p.toNat x).chan p.toNat = x :=
    State.chan_setChan_self _ _ (hs.chans_length ▸ hp)
  rw [exec_scan_of_valid (hs.portOk_setChan hp openC) valid,
    exec_scan_of_valid (hs.portOk_setChan hp openD) valid]
  simp only [back, State.setChan_setChan, openC, openD, snk, drained]
  rfl

/-- Settles O37: in a buffer with room, the drain's first move of the byte in front of the source is
a push of it. -/
theorem pushedByteIsScannedBeforeTheSource : Obligations.PushedByteIsScannedBeforeTheSource := by
  intro p b s hs hp valid room
  refine ⟨_, exec_rbPush_of_room hp b room, ?_⟩
  have pushed : (s.setRing p.toNat ((s.chan p.toNat).ring.push b)).PortOk p :=
    hs.portOk_setChan hp.1 hp.2
  have drained : drain ((s.chan p.toNat).ring.push b) (s.chan p.toNat).src =
      drain (s.chan p.toNat).ring (b :: (s.chan p.toNat).src) := (if_pos room).symm
  exact (exec_scan_respond pushed valid _ _).trans
    (exec_scan_setChan_congr hs hp.1 valid hp.2 hp.2 rfl drained)

end Sys2Proof.Machine

/-! ## Conversions (41_conversion.md R170 to R177) -/

namespace Sys2Proof.Machine

/-- How the words of a command with two byte operands decode, from how its fields do
(30_encoding.md R102, `A8` and `B8`). -/
theorem decodesAs_of_byteOperands {opc : Byte} {mk : Byte → Byte → Instr}
    (h : ∀ p a b, decodeFields opc p a b =
      ifZero (p == 0 && highByte a == 0 && highByte b == 0) (mk (lowByte a) (lowByte b))) :
    DecodesAs opc (fun p a b => p == 0 && decide (a.toNat < 256) && decide (b.toNat < 256))
      (fun _ a b => mk (a.setWidth 8) (b.setWidth 8)) :=
  decodesAs_of_fields fun p a b => by
    rw [h, highByte_beq_zero, highByte_beq_zero, lowByte_eq_setWidth, lowByte_eq_setWidth]
    rfl

/-! ### The results as arithmetic -/

theorem byteResult_eq_ofNat (b : Byte) : byteResult b = BitVec.ofNat 16 b.toNat :=
  (BitVec.ofNat_toNat 16 b).symm

theorem byteResult_msb (v : Half) : byteResult (msb v) = BitVec.ofNat 16 (v.toNat / 256) :=
  (byteResult_eq_ofNat _).trans (congrArg _ (toNat_highByte v))

theorem byteResult_lsb (v : Half) : byteResult (lsb v) = BitVec.ofNat 16 (v.toNat % 256) :=
  (byteResult_eq_ofNat _).trans (congrArg _ (toNat_lowByte v))

theorem toNat_join (m l : Byte) : (join m l).toNat = m.toNat * 256 + l.toNat := by
  rw [join, BitVec.toNat_append, ← Nat.shiftLeft_add_eq_or_of_lt l.isLt, Nat.shiftLeft_eq]

theorem join_eq_ofNat (m l : Byte) : join m l = BitVec.ofNat 16 (m.toNat * 256 + l.toNat) := by
  rw [← toNat_join, BitVec.ofNat_toNat, BitVec.setWidth_eq]

/-! ### Splitting and joining -/

theorem msb_join (m l : Byte) : msb (join m l) = m :=
  BitVec.extractLsb'_append_eq_left

theorem lsb_join (m l : Byte) : lsb (join m l) = l :=
  BitVec.extractLsb'_append_eq_right

theorem join_msb_lsb (v : Half) : join (msb v) (lsb v) = v :=
  (BitVec.extractLsb'_append_extractLsb'_eq_extractLsb' rfl).trans BitVec.extractLsb'_eq_self

/-- The byte of a byte result, as an operand of the next command. -/
theorem setWidth_byteResult (b : Byte) : (byteResult b).setWidth 8 = b :=
  (BitVec.setWidth_setWidth_of_le b (by decide)).trans (BitVec.setWidth_eq b)

/-- Joining the bytes that the splitting commands answered gives the value back. -/
theorem join_byteResults (v : Half) :
    join ((byteResult (msb v)).setWidth 8) ((byteResult (lsb v)).setWidth 8) = v := by
  rw [setWidth_byteResult, setWidth_byteResult, join_msb_lsb]

/-- Equal values are equal answers. -/
theorem answerOnly_eq {v w : Half} (h : v = w) (s : State) :
    answerOnly v s = .next (s.answered w) :=
  h ▸ rfl

/-- Settles O38: each result is its arithmetic, and the answer is the only change. -/
theorem conversionsSplitAndJoin : Obligations.ConversionsSplitAndJoin :=
  ⟨decodesAs_of_fields fun _ _ _ => rfl, decodesAs_of_fields fun _ _ _ => rfl,
    decodesAs_of_fields fun _ _ _ => rfl, decodesAs_of_fields fun _ _ _ => rfl,
    decodesAs_of_byteOperands fun _ _ _ => rfl, decodesAs_of_byteOperands fun _ _ _ => rfl,
    fun v m l s =>
      ⟨answerOnly_eq (byteResult_msb v) s, answerOnly_eq (byteResult_lsb v) s,
        answerOnly_eq (byteResult_msb v) s, answerOnly_eq (byteResult_lsb v) s,
        answerOnly_eq (join_eq_ofNat m l) s, answerOnly_eq (join_eq_ofNat m l) s⟩⟩

/-- Settles O39: the two forms have one meaning, and on bytes `join` and the pair `msb`, `lsb` are
inverse to each other. -/
theorem splitAndJoinRoundTrip : Obligations.SplitAndJoinRoundTrip :=
  fun x m l s => ⟨rfl, rfl, rfl,
    ⟨byteResult (msb x), byteResult (lsb x), rfl, rfl, answerOnly_eq (join_byteResults x) s⟩,
    ⟨byteResult (msb x), byteResult (lsb x), rfl, rfl, answerOnly_eq (join_byteResults x) s⟩,
    join m l, rfl, answerOnly_eq (congrArg byteResult (msb_join m l)) s,
    answerOnly_eq (congrArg byteResult (lsb_join m l)) s⟩

end Sys2Proof.Machine

/-! ## CRC-8 (42_crc8.md R190 to R196) -/

namespace Sys2Proof.Machine

/-! ### The bit procedure on unsigned readings -/

/-- One iteration of R190 on the unsigned readings of `value` and `data`. -/
def crcNatIteration (x : Nat × Nat) : Nat × Nat :=
  (if (x.1 ^^^ x.2) % 2 = 1 then (x.1 / 2) ^^^ 0x8C else x.1 / 2, x.2 / 2)

theorem Byte.toNat_ushiftRight_one (x : Byte) : (x >>> 1).toNat = x.toNat / 2 := by
  rw [BitVec.toNat_ushiftRight, Nat.shiftRight_eq_div_pow, pow_one]

theorem Byte.and_one_eq_one_iff (x : Byte) : x &&& 1 = 1 ↔ x.toNat % 2 = 1 := by
  rw [← BitVec.toNat_inj, BitVec.toNat_and, ← Nat.and_one_is_mod]
  rfl

theorem toNat_crcBits (n : Nat) (value data : Byte) :
    (crcBits n value data).toNat = (crcNatIteration^[n] (value.toNat, data.toNat)).1 := by
  induction n generalizing value data with
  | zero => rfl
  | succ n ih =>
    rw [crcBits, ih, Function.iterate_succ_apply, crcNatIteration, Byte.toNat_ushiftRight_one]
    simp only [Byte.and_one_eq_one_iff, BitVec.toNat_xor]
    split
    · rw [BitVec.toNat_xor, Byte.toNat_ushiftRight_one]
      rfl
    · rw [Byte.toNat_ushiftRight_one]

theorem crc8_append_singleton (l : List Byte) (b : Byte) : crc8 (l ++ [b]) = crcStep (crc8 l) b :=
  List.foldl_concat ..

/-- Settles O40: the iterations agree one by one, and a left fold takes an appended byte last. -/
theorem crcFollowsTheBitProcedure : Obligations.CrcFollowsTheBitProcedure :=
  ⟨toNat_crcBits 8, rfl, crc8_append_singleton⟩

/-! ### The iteration on the sum of value and data -/

/-- What a shifted-out bit adds to the halved byte. -/
def crcFeedback (bit : Bool) : Byte := if bit then crcPoly else 0

/-- One iteration of R190 on the sum of value and data. -/
def crcShift (sum : Byte) : Byte := sum >>> 1 ^^^ crcFeedback (sum.getLsbD 0)

theorem Byte.and_one_eq_one_iff_getLsbD (x : Byte) : x &&& 1 = 1 ↔ x.getLsbD 0 = true := by
  rw [Byte.and_one_eq_one_iff, BitVec.getLsbD, Nat.testBit_zero, decide_eq_true_iff]

theorem crcBits_succ (n : Nat) (value data : Byte) :
    crcBits (n + 1) value data =
      crcBits n (value >>> 1 ^^^ crcFeedback ((value ^^^ data).getLsbD 0)) (data >>> 1) := by
  simp only [crcBits, Byte.and_one_eq_one_iff_getLsbD]
  cases (value ^^^ data).getLsbD 0
  · exact congrArg (crcBits n · _) BitVec.xor_zero.symm
  · rfl

/-- Value and data act through their sum; what is left of the data stays beside it. -/
theorem crcBits_eq_iterate (n : Nat) (value data : Byte) :
    crcBits n value data = crcShift^[n] (value ^^^ data) ^^^ (data >>> n) := by
  induction n generalizing value data with
  | zero => simp [crcBits]
  | succ n ih =>
    have next : value >>> 1 ^^^ crcFeedback ((value ^^^ data).getLsbD 0) ^^^ data >>> 1 =
        crcShift (value ^^^ data) := by
      rw [crcShift, BitVec.ushiftRight_xor_distrib]
      ac_rfl
    rw [crcBits_succ, ih, next, Function.iterate_succ_apply, ← BitVec.shiftRight_add,
      Nat.add_comm 1 n]

/-- Eight iterations shift all of the data out. -/
theorem crcStep_eq_iterate (value data : Byte) :
    crcStep value data = crcShift^[8] (value ^^^ data) := by
  have out : data >>> 8 = 0 := BitVec.ushiftRight_eq_zero (Nat.le_refl 8)
  rw [crcStep, crcBits_eq_iterate, out]
  exact BitVec.xor_zero

/-! ### The table (R192) -/

/-- The table of the spec is what the bit procedure computes. -/
theorem crcTable_rows :
    crcTableLow ++ crcTableHigh =
      (List.range 256).map fun k => (crcShift^[8] (BitVec.ofNat 8 k)).toNat := by
  decide +kernel

theorem crcTable_eq_iterate (x : Byte) : crcTable x = crcShift^[8] x := by
  simp [crcTable, crcTable_rows, x.isLt]

theorem crcStep_eq_crcTable (value data : Byte) : crcStep value data = crcTable (value ^^^ data) :=
  (crcStep_eq_iterate value data).trans (crcTable_eq_iterate _).symm

/-- At index 0 the table holds 0. -/
theorem crcStep_self (x : Byte) : crcStep x x = 0 :=
  (crcStep_eq_crcTable x x).trans (congrArg crcTable BitVec.xor_self)

/-- A zero byte keeps a zero accumulator. -/
theorem crc8_zeros (n : Nat) : crc8 (List.replicate n 0) = 0 := by
  induction n with
  | zero => rfl
  | succ n ih => rw [List.replicate_succ', crc8_append_singleton, ih, crcStep_self]

/-! ### Linearity (R192) -/

theorem crcFeedback_xor (x y : Bool) : crcFeedback (x ^^ y) = crcFeedback x ^^^ crcFeedback y := by
  cases x <;> cases y <;> rfl

theorem crcShift_xor (x y : Byte) : crcShift (x ^^^ y) = crcShift x ^^^ crcShift y := by
  rw [crcShift, BitVec.ushiftRight_xor_distrib, BitVec.getLsbD_xor, crcFeedback_xor,
    crcShift, crcShift]
  ac_rfl

theorem crcTable_xor (x y : Byte) : crcTable (x ^^^ y) = crcTable x ^^^ crcTable y := by
  simp only [crcTable_eq_iterate]
  exact Function.Semiconj₂.iterate crcShift_xor 8 x y

theorem crcStep_xor (v w a b : Byte) :
    crcStep (v ^^^ w) (a ^^^ b) = crcStep v a ^^^ crcStep w b := by
  simp only [crcStep_eq_crcTable, ← crcTable_xor]
  congr 1
  ac_rfl

/-- Folds over two lists of equal length add up byte by byte. -/
theorem foldl_crcStep_xor {l₁ l₂ : List Byte} (h : l₁.length = l₂.length) (v w : Byte) :
    (List.zipWith (· ^^^ ·) l₁ l₂).foldl crcStep (v ^^^ w) =
      l₁.foldl crcStep v ^^^ l₂.foldl crcStep w := by
  induction l₁ generalizing l₂ v w with
  | nil =>
    obtain rfl := List.length_eq_zero_iff.mp h.symm
    rfl
  | cons a l₁ ih =>
    cases l₂ with
    | nil => cases h
    | cons b l₂ =>
      rw [List.zipWith_cons_cons, List.foldl_cons, crcStep_xor, ih (Nat.succ.inj h)]
      rfl

/-! ### Changes of one byte (R192) -/

/-- An iteration loses nothing: the polynomial's top bit marks where a 1 fell out. -/
theorem crcShift_eq_zero : ∀ x : Byte, crcShift x = 0 → x = 0 := by
  decide

theorem crcShift_injective : Function.Injective crcShift := by
  intro x y h
  refine BitVec.xor_eq_zero_iff.mp (crcShift_eq_zero _ ?_)
  rw [crcShift_xor, h]
  exact BitVec.xor_self

theorem crcTable_injective : Function.Injective crcTable :=
  funext crcTable_eq_iterate ▸ crcShift_injective.iterate 8

theorem crcStep_left_injective (data : Byte) : Function.Injective (crcStep · data) := by
  intro v w h
  simp only [crcStep_eq_crcTable] at h
  exact (BitVec.xor_left_inj data).mp (crcTable_injective h)

theorem crcStep_right_injective (value : Byte) : Function.Injective (crcStep value) := by
  intro a b h
  simp only [crcStep_eq_crcTable] at h
  exact (BitVec.xor_right_inj value).mp (crcTable_injective h)

/-- A difference in the accumulator survives every later byte. -/
theorem foldl_crcStep_injective (l : List Byte) :
    Function.Injective fun v => l.foldl crcStep v := by
  induction l with
  | nil => exact Function.injective_id
  | cons b l ih => exact ih.comp (crcStep_left_injective b)

/-- One byte replaced by another changes the fold. -/
theorem eq_of_foldl_crcStep_set {l : List Byte} {i : Nat} {b c v : Byte} (hb : l[i]? = some b)
    (h : (l.set i c).foldl crcStep v = l.foldl crcStep v) : c = b := by
  induction l generalizing i v with
  | nil => cases hb
  | cons a l ih =>
    cases i with
    | zero =>
      obtain rfl : a = b := Option.some.inj hb
      exact crcStep_right_injective v (foldl_crcStep_injective l h)
    | succ i => exact ih hb h

theorem Byte.xor_bit_ne (b : Byte) {n : Nat} (hn : n < 8) : b ^^^ (1 <<< n) ≠ b := by
  have bit : ∀ n < 8, (1 <<< n : Byte) ≠ 0 := by decide
  intro h
  exact bit n hn ((BitVec.xor_right_inj b).mp (h.trans BitVec.xor_zero.symm))

/-- Settles O41: a step looks its table up at the sum of accumulator and byte, and the table is
linear and injective. -/
theorem crcConsequences : Obligations.CrcConsequences := by
  refine ⟨crcStep_eq_crcTable, fun x => ?single, crc8_zeros, fun l => ?residue,
    fun _ _ h => foldl_crcStep_xor h 0 0,
    fun _ _ _ b hn hb same => Byte.xor_bit_ne b hn (eq_of_foldl_crcStep_set hb same)⟩
  case single => exact (crcStep_eq_crcTable 0 x).trans (congrArg crcTable BitVec.zero_xor)
  case residue => rw [crc8_append_singleton, crcStep_self]

/-! ### The commands (R194 to R196) -/

/-- Settles O42: the fields of the words, and each meaning is its next state. -/
theorem crcCommandsDriveTheAccumulator : Obligations.CrcCommandsDriveTheAccumulator := by
  refine ⟨decodesAs_of_fields fun _ _ _ => rfl, decodesAs_of_fields fun p a b => ?_,
    decodesAs_of_fields fun _ _ _ => rfl, fun _ _ => ⟨rfl, rfl, rfl⟩⟩
  rw [← highByte_beq_zero, ← lowByte_eq_setWidth]
  rfl

end Sys2Proof.Machine

/-! ## A scan of one channel (43_scanner.md R210 to R214, R218, R223) -/

namespace Sys2Proof.Machine

/-! ### The state after a scan -/

/-- The state a scan of channel `p` leads to, from what its loop leaves and the bytes that stay in
the source. -/
def State.afterScan (s : State) (p : Nat) (w : ScanWork) (src : List Byte) : State :=
  ((s.setChan p { s.chan p with ring := w.ring, src := src }).setArray w.array).respond .ok
    (countResult w.frames)

theorem exec_scan_eq_afterScan {s : State} {p : Byte} (hp : s.PortOk p)
    (valid : s.addrValid = true) :
    exec (.scan p) s = .next (s.afterScan p.toNat
      (scanBuffer s.cfg s.localAddr p.toNat (drain (s.chan p.toNat).ring (s.chan p.toNat).src).1
        s.array)
      (drain (s.chan p.toNat).ring (s.chan p.toNat).src).2) :=
  exec_scan_of_valid hp valid

section
variable {s : State} {p : Byte} (hs : s.Inv) (hp : s.PortOk p) (valid : s.addrValid = true)
include hs hp

theorem State.Inv.chan_afterScan (w : ScanWork) (src : List Byte) :
    (s.afterScan p.toNat w src).chan p.toNat =
      { s.chan p.toNat with ring := w.ring, src := src } :=
  State.chan_setChan_self _ _ (hs.chans_length ▸ hp.1)

/-- The scanned channel's source replaced. -/
theorem State.Inv.setChan_afterScan (w : ScanWork) (src l : List Byte) :
    (s.afterScan p.toNat w src).setChan p.toNat
        { (s.afterScan p.toNat w src).chan p.toNat with src := l } = s.afterScan p.toNat w l := by
  rw [hs.chan_afterScan hp]
  exact congrArg (fun u : State => (u.setArray w.array).respond .ok (countResult w.frames))
    (State.setChan_setChan s p.toNat _ _)

include valid

/-- A scan of a channel whose buffer and source were replaced. -/
theorem exec_scan_setChan (r : RingBuf) (l : List Byte) :
    exec (.scan p) (s.setChan p.toNat { s.chan p.toNat with ring := r, src := l }) =
      .next (s.afterScan p.toNat (scanBuffer s.cfg s.localAddr p.toNat (drain r l).1 s.array)
        (drain r l).2) := by
  let c : Channel := { s.chan p.toNat with ring := r, src := l }
  rw [exec_scan_of_valid (hs.portOk_setChan (c := c) hp.1 hp.2) valid]
  simp only [State.chan_setChan_self _ _ (hs.chans_length ▸ hp.1), State.setChan_setChan]
  rfl

end

/-! ### The drain -/

/-- The drain (43_scanner.md R211) does not look past the bytes there is room for. -/
theorem drain_take (l : List Byte) (r : RingBuf) :
    drain r (l.take (r.cap - r.count)) = ((drain r l).1, []) := by
  induction l generalizing r with
  | nil => rw [List.take_nil]; rfl
  | cons b l ih =>
    by_cases room : r.count < r.cap
    · have next : r.cap - r.count = (r.push b).cap - (r.push b).count + 1 := by
        rw [RingBuf.push_cap, RingBuf.push_count]; omega
      rw [next, List.take_succ_cons, drain, if_pos room, ih, drain, if_pos room]
    · rw [Nat.sub_eq_zero_of_le (Nat.not_lt.mp room), List.take_zero, drain, drain, if_neg room]

/-- Settles O46: `drain_spec` says what stays in the source, and by `drain_take` the buffer that is
scanned is the same without it. -/
theorem scanDrainsTheSourceOnce : Obligations.ScanDrainsTheSourceOnce := by
  intro p s hs hp valid
  obtain ⟨-, -, -, left⟩ := drain_spec (s.chan p.toNat).src (hs.ring_wf hp)
  refine ⟨_, exec_scan_eq_afterScan hp valid, ?stays, ?alone⟩
  case stays =>
    rw [hs.chan_afterScan hp, left, List.drop_eq_drop_iff]
    omega
  case alone =>
    refine (exec_scan_setChan hs hp valid _ _).trans ?_
    rw [drain_take]
    exact congrArg _ (hs.setChan_afterScan hp _ _ _).symm

/-! ### Passes that reject -/

/-- The header check (43_scanner.md R214) in the words of the statements. -/
theorem headerValid_iff {cfg : Config} {addr : Byte} {q : List Byte} (h : headerSize ≤ q.length) :
    headerValid cfg addr q = true ↔ ValidHeader cfg addr q := by
  match q, h with
  | a :: b :: c :: d :: e :: l, _ =>
    simp [headerValid, ValidHeader, byteAt, headerLen, frameSize, header0, header1, entrySize,
      frameOverhead, and_assoc]

theorem headerLen_eq {q : List Byte} {len : Byte} (h : q[4]? = some len) :
    headerLen q = len.toNat := by
  simp [headerLen, byteAt, h]

/-- The CRC check (43_scanner.md R217) of a frame that is all there. -/
theorem crcAgrees_iff {q : List Byte} {c : Byte} (h : q[headerSize + headerLen q]? = some c) :
    crcAgrees q = true ↔ crc8 (dataSegment q) = c := by
  simp [crcAgrees, byteAt, h]

/-- An invalid header or a CRC mismatch costs a pass its first byte (43_scanner.md R214, R218). -/
theorem scanPass_of_rejected {cfg : Config} {addr : Byte} {p : Nat} {x : ScanWork}
    (header : headerSize ≤ x.ring.q.length)
    (rejected : ¬ headerValid cfg addr x.ring.q = true ∨
      (frameSize x.ring.q ≤ x.ring.q.length ∧ ¬ crcAgrees x.ring.q = true)) :
    scanPass cfg addr p x = (true, x.discardOne) := by
  rw [scanPass, if_neg (Nat.not_lt.mpr header)]
  rcases rejected with invalid | ⟨complete, mismatch⟩
  · exact if_pos (by simpa using invalid)
  · rw [if_neg (Nat.not_lt.mpr complete), if_neg mismatch, ite_self]

/-- A buffer that starts with `HEADER_0` is synchronized (43_scanner.md R213). -/
theorem synchronize_of_header0 {r : RingBuf} (h : r.q[0]? = some header0) : synchronize r = r := by
  obtain ⟨l, start⟩ := List.head?_eq_some_iff.mp (List.head?_eq_getElem? ▸ h)
  rw [synchronize, syncCount, start, List.takeWhile_cons_of_neg (by simp)]
  rfl

/-- The loop after a pass that goes on. -/
theorem scanLoop_of_goesOn {cfg : Config} {addr : Byte} {p : Nat} {x y : ScanWork}
    (nonempty : x.ring.q ≠ [])
    (pass : scanPass cfg addr p { x with ring := synchronize x.ring } = (true, y)) (n : Nat) :
    scanLoop cfg addr p (n + 1) x = scanLoop cfg addr p n y := by
  rw [scanLoop_succ, if_neg (mt (RingBuf.q_eq_nil _).mpr nonempty), pass]
  rfl

/-- A buffer whose first pass discards a byte is scanned as it is without the byte. -/
theorem scanBuffer_of_discard {cfg : Config} {addr : Byte} {p : Nat} {r : RingBuf}
    {arr : List Entry}
    (start : r.q[0]? = some header0)
    (discard : scanPass cfg addr p { ring := r, array := arr, frames := 0 } =
      (true, ScanWork.discardOne { ring := r, array := arr, frames := 0 })) :
    scanBuffer cfg addr p r arr = scanBuffer cfg addr p (RingBuf.dropFront 1 r) arr := by
  have nonempty : r.q ≠ [] := by
    intro empty
    rw [empty] at start
    cases start
  have fuel : (RingBuf.dropFront 1 r).count + 1 = r.count := by
    rw [RingBuf.dropFront_count]
    exact Nat.sub_add_cancel (Nat.pos_of_ne_zero (mt (RingBuf.q_eq_nil r).mpr nonempty))
  rw [scanBuffer, scanBuffer, fuel]
  exact scanLoop_of_goesOn nonempty ((synchronize_of_header0 start).symm ▸ discard) _

/-- Settles O50: the drain moves nothing, and the first pass discards the byte. -/
theorem rejectedHeaderCostsOneByte : Obligations.RejectedHeaderCostsOneByte := by
  rintro p s q hs hp valid noSource rfl start header rejected
  have checks : ¬ headerValid s.cfg s.localAddr (s.chan p.toNat).ring.q = true ∨
      (frameSize (s.chan p.toNat).ring.q ≤ (s.chan p.toNat).ring.q.length ∧
        ¬ crcAgrees (s.chan p.toNat).ring.q = true) := by
    rw [headerValid_iff header]
    refine rejected.imp_right fun ⟨len, c, hlen, hc, mismatch⟩ => ?_
    rw [← headerLen_eq hlen] at hc mismatch
    refine ⟨?_, fun agrees => mismatch ((crcAgrees_iff hc).mp agrees)⟩
    have inside := (List.getElem?_eq_some_iff.mp hc).1
    rw [frameSize, frameOverhead]
    omega
  have same := scanBuffer_of_discard (arr := s.array) start
    (scanPass_of_rejected (p := p.toNat) header checks)
  refine Eq.trans ?_ (exec_scan_setChan hs hp valid _ _).symm
  rw [exec_scan_eq_afterScan hp valid, noSource, drain, drain, same]

end Sys2Proof.Machine

/-! ## Runs of the scanner's loop (43_scanner.md R212, R223, R224) -/

namespace Sys2Proof.Machine

section
variable {cfg : Config} {addr : Byte} {p : Nat}

/-- A relation between what the loop works on and what it leaves, by the loop's three ways on: it
stops at an empty buffer, it goes on after a pass, a pass ends it (43_scanner.md R212). -/
theorem scanLoop_run (P : ScanWork → ScanWork → Prop)
    (empty : ∀ x, x.ring.q = [] → P x x)
    (goesOn : ∀ x y z, x.ring.q ≠ [] →
      scanPass cfg addr p { x with ring := synchronize x.ring } = (true, y) → P y z → P x z)
    (ends : ∀ x y, x.ring.q ≠ [] →
      scanPass cfg addr p { x with ring := synchronize x.ring } = (false, y) → P x y)
    {n : Nat} {x : ScanWork} (fuel : x.ring.count < n) : P x (scanLoop cfg addr p n x) := by
  induction n generalizing x with
  | zero => omega
  | succ n ih =>
    rw [scanLoop]
    split_ifs with h
    · exact empty x ((RingBuf.q_eq_nil _).mpr h)
    · have nonempty : x.ring.q ≠ [] := mt (RingBuf.q_eq_nil _).mp h
      split
      · rename_i y pass
        have shrinks := scanPass_shrinks pass
        have shorter := synchronize_count_le x.ring
        exact goesOn x y _ nonempty pass (ih (by simp only at shrinks; omega))
      · rename_i y pass
        exact ends x y nonempty pass

/-- A synchronized buffer is empty or starts with `HEADER_0` (43_scanner.md R213). -/
theorem synchronize_starts (r : RingBuf) :
    (synchronize r).q = [] ∨ (synchronize r).q[0]? = some header0 := by
  rw [synchronize_q]
  have first := List.head?_dropWhile_not (· != header0) r.q
  rw [← List.head?_eq_getElem?]
  cases rest : r.q.dropWhile (· != header0) with
  | nil => exact .inl rfl
  | cons b l => simpa [rest] using first

/-- The three shapes of a buffer at which the loop ends (43_scanner.md R223). -/
def ScanEnd (cfg : Config) (addr : Byte) (q : List Byte) : Prop :=
  q = [] ∨ (1 ≤ q.length ∧ q.length ≤ 4 ∧ q[0]? = some 0x06) ∨
    (ValidHeader cfg addr q ∧ ∃ len : Byte, q[4]? = some len ∧ q.length < len.toNat + 6)

/-- A synchronized buffer at which a pass ends has one of the three shapes. -/
theorem scanEnd_of_ends {x y : ScanWork}
    (starts : x.ring.q = [] ∨ x.ring.q[0]? = some header0)
    (ends : scanPass cfg addr p x = (false, y)) : ScanEnd cfg addr y.ring.q := by
  rcases scanPass_cases cfg addr p x with ⟨stop, why⟩ | ⟨pass, -⟩ | ⟨pass, -⟩
  · obtain rfl : x = y := (Prod.mk.inj (stop.symm.trans ends)).2
    rw [← RingBuf.q_length] at why
    rcases starts with empty | first
    · exact .inl empty
    · have nonempty := (List.getElem?_eq_some_iff.mp first).1
      rcases why with short | ⟨header, valid, incomplete⟩
      · exact .inr (.inl ⟨nonempty, Nat.le_of_lt_succ short, first⟩)
      · have validHeader := (headerValid_iff header).mp valid
        obtain ⟨-, -, -, len, hlen, -, -⟩ := id validHeader
        rw [frameSize, headerLen_eq hlen] at incomplete
        exact .inr (.inr ⟨validHeader, len, hlen, incomplete⟩)
  · cases pass.symm.trans ends
  · cases pass.symm.trans ends

theorem scanBuffer_scanEnd (r : RingBuf) (arr : List Entry) :
    ScanEnd cfg addr (scanBuffer cfg addr p r arr).ring.q :=
  scanLoop_run (fun _ y => ScanEnd cfg addr y.ring.q) (fun _ => .inl) (fun _ _ _ _ _ => id)
    (fun x _ _ => scanEnd_of_ends (synchronize_starts x.ring)) (Nat.lt_succ_self _)

end

/-- Settles O47: more fuel than bytes is enough fuel, and every run of the loop ends in one of the
shapes. -/
theorem scanEndsInOneOfThreeShapes : Obligations.ScanEndsInOneOfThreeShapes := by
  refine ⟨fun cfg addr p k r arr => scanLoop_fuel cfg addr p ?_ (Nat.lt_succ_self _),
    fun p s hs hp valid => ⟨_, _, exec_scan_eq_afterScan hp valid, rfl, ?_⟩⟩
  · exact Nat.lt_of_lt_of_le (Nat.lt_succ_self _) (Nat.le_add_right _ _)
  · rw [hs.chan_afterScan hp]
    exact scanBuffer_scanEnd _ _

/-! ### The state machine of R224 -/

section
variable {cfg : Config} {addr : Byte} {p cap : Nat}

/-- The state machine comes from one of its states to another (43_scanner.md R224). -/
def FsmReaches (cfg : Config) (addr : Byte) (p cap : Nat) (x y : ScanFsm) : Prop :=
  ∃ n, y = fsmRun cfg addr p cap n x

theorem FsmReaches.refl (x : ScanFsm) : FsmReaches cfg addr p cap x x := ⟨0, rfl⟩

theorem fsmRun_eq_iterate (n : Nat) (x : ScanFsm) :
    fsmRun cfg addr p cap n x = (fsmStep cfg addr p cap)^[n] x := by
  induction n generalizing x with
  | zero => rfl
  | succ n ih => exact ih _

theorem FsmReaches.trans {x y z : ScanFsm} (h : FsmReaches cfg addr p cap x y)
    (k : FsmReaches cfg addr p cap y z) : FsmReaches cfg addr p cap x z := by
  obtain ⟨m, rfl⟩ := h
  obtain ⟨n, rfl⟩ := k
  exact ⟨n + m, by simp only [fsmRun_eq_iterate, Function.iterate_add_apply]⟩

/-- One transition first. -/
theorem FsmReaches.step {x y : ScanFsm}
    (h : FsmReaches cfg addr p cap (fsmStep cfg addr p cap x) y) : FsmReaches cfg addr p cap x y :=
  .trans ⟨1, rfl⟩ h

/-- The state machine on what the loop works on. -/
def ScanWork.fsm (x : ScanWork) (src : List Byte) (phase : ScanPhase) : ScanFsm :=
  { phase := phase, q := x.ring.q, src := src, array := x.array, frames := x.frames }

/-! The transitions, on what the loop works on. -/

theorem fsmStep_synchronizing (x : ScanWork) (src : List Byte) :
    fsmStep cfg addr p cap (x.fsm src .synchronizing) =
      ScanWork.fsm { x with ring := synchronize x.ring } src .headerPending := by
  simp only [ScanWork.fsm, synchronize_q]
  rfl

theorem fsmStep_headerPending (x : ScanWork) (src : List Byte) :
    fsmStep cfg addr p cap (x.fsm src .headerPending) =
      if x.ring.q.length < headerSize then x.fsm src .returned
      else if headerValid cfg addr x.ring.q then x.fsm src .bodyPending
      else x.discardOne.fsm src .synchronizing := by
  simp only [ScanWork.fsm, discardOne_q]
  rfl

theorem fsmStep_bodyPending (x : ScanWork) (src : List Byte) :
    fsmStep cfg addr p cap (x.fsm src .bodyPending) =
      if x.ring.q.length < frameSize x.ring.q then x.fsm src .returned else x.fsm src .crcCheck :=
  rfl

theorem fsmStep_crcCheck (x : ScanWork) (src : List Byte) :
    fsmStep cfg addr p cap (x.fsm src .crcCheck) =
      x.fsm src (if crcAgrees x.ring.q then .commit else .discard) :=
  rfl

theorem fsmStep_commit (x : ScanWork) (src : List Byte) :
    fsmStep cfg addr p cap (x.fsm src .commit) =
      (x.commit cfg p).fsm src (phaseAfter (x.commit cfg p).ring.q) := by
  simp only [ScanWork.fsm, commit_q]
  rfl

theorem fsmStep_discard (x : ScanWork) (src : List Byte) :
    fsmStep cfg addr p cap (x.fsm src .discard) =
      x.discardOne.fsm src (phaseAfter x.discardOne.ring.q) := by
  simp only [ScanWork.fsm, discardOne_q]
  rfl

/-- The machine after a pass that goes on or ends the scan. -/
def fsmAfterPass (src : List Byte) (y : Bool × ScanWork) : ScanFsm :=
  y.2.fsm src (if y.1 then phaseAfter y.2.ring.q else .returned)

/-- A pass is the machine's way from Header-pending on: back to Synchronizing or to the host after
bytes were removed, or back to the host at once. -/
theorem fsmReaches_scanPass (x : ScanWork) (src : List Byte) :
    FsmReaches cfg addr p cap (x.fsm src .headerPending)
      (fsmAfterPass src (scanPass cfg addr p x)) := by
  refine .step ?_
  rw [fsmStep_headerPending, scanPass]
  by_cases short : x.ring.q.length < headerSize
  · rw [if_pos short, if_pos short]
    exact .refl _
  rw [if_neg short, if_neg short]
  cases headerValid cfg addr x.ring.q with
  | false =>
    have rest : x.discardOne.ring.q ≠ [] := by
      rw [discardOne_q, Ne, List.drop_eq_nil_iff]
      exact fun few => short (Nat.lt_of_le_of_lt few (by decide))
    have back : fsmAfterPass src (true, x.discardOne) = x.discardOne.fsm src .synchronizing :=
      congrArg _ (if_neg rest)
    exact back ▸ .refl _
  | true =>
    refine .step ?_
    rw [if_pos rfl, fsmStep_bodyPending, Bool.not_true, if_neg Bool.false_ne_true]
    by_cases incomplete : x.ring.q.length < frameSize x.ring.q
    · rw [if_pos incomplete, if_pos incomplete]
      exact .refl _
    · rw [if_neg incomplete, if_neg incomplete]
      refine .step ?_
      rw [fsmStep_crcCheck]
      cases crcAgrees x.ring.q with
      | false => exact .step (fsmStep_discard x src ▸ .refl _)
      | true => exact .step (fsmStep_commit x src ▸ .refl _)

/-- A nonempty buffer is synchronized and passed over (43_scanner.md R212, R213). -/
theorem fsmReaches_of_pass {x : ScanWork} {y : Bool × ScanWork} (src : List Byte)
    (nonempty : x.ring.q ≠ [])
    (pass : scanPass cfg addr p { x with ring := synchronize x.ring } = y) :
    FsmReaches cfg addr p cap (x.fsm src (phaseAfter x.ring.q)) (fsmAfterPass src y) := by
  subst pass
  rw [phaseAfter, if_neg nonempty]
  exact .step (fsmStep_synchronizing x src ▸ fsmReaches_scanPass _ src)

/-- The loop is the machine's run until it returns (43_scanner.md R212, R224). -/
theorem fsmReaches_scanBuffer (r : RingBuf) (arr : List Entry) (src : List Byte) :
    FsmReaches cfg addr p cap
      (ScanWork.fsm { ring := r, array := arr, frames := 0 } src (phaseAfter r.q))
      ((scanBuffer cfg addr p r arr).fsm src .returned) := by
  refine scanLoop_run (fun x y => FsmReaches cfg addr p cap (x.fsm src (phaseAfter x.ring.q))
    (y.fsm src .returned)) (fun x empty => ?empty)
    (fun _ _ _ nonempty pass rest => (fsmReaches_of_pass src nonempty pass).trans rest)
    (fun _ _ nonempty pass => fsmReaches_of_pass src nonempty pass) (Nat.lt_succ_self _)
  rw [phaseAfter, if_pos empty]
  exact .refl _

end

/-- Draining, in the words of `drain_spec` (43_scanner.md R211). -/
theorem fsmStep_draining (cfg : Config) (addr : Byte) (p m : Nat) {r : RingBuf} (src : List Byte)
    (arr : List Entry) (h : r.Wf m) :
    fsmStep cfg addr p r.cap { phase := .draining, q := r.q, src := src, array := arr, frames := 0 } =
      ScanWork.fsm { ring := (drain r src).1, array := arr, frames := 0 } (drain r src).2
        (phaseAfter (drain r src).1.q) := by
  obtain ⟨-, -, content, left⟩ := drain_spec src h
  have taken : src.take (min src.length (r.cap - r.count)) = src.take (r.cap - r.count) :=
    List.take_eq_take_iff.mpr (by omega)
  have stays : src.drop (min src.length (r.cap - r.count)) = src.drop (r.cap - r.count) :=
    List.drop_eq_drop_iff.mpr (by omega)
  simp only [fsmStep, ScanWork.fsm, RingBuf.q_length, content, left, taken, stays]

/-- Settles O45: Draining is the drain, and from there on the loop is the machine's run. -/
theorem scanIsTheReassemblyMachine : Obligations.ScanIsTheReassemblyMachine := by
  intro p s hs hp valid
  obtain ⟨n, run⟩ : FsmReaches s.cfg s.localAddr p.toNat (s.chan p.toNat).ring.cap
      { phase := .draining, q := (s.chan p.toNat).ring.q, src := (s.chan p.toNat).src,
        array := s.array, frames := 0 } _ :=
    .step (fsmStep_draining _ _ _ _ _ s.array (hs.ring_wf hp) ▸ fsmReaches_scanBuffer _ _ _)
  refine ⟨_, n, _, exec_scan_eq_afterScan hp valid, run, rfl,
    congrArg (·.ring.q) (hs.chan_afterScan hp _ _), congrArg (·.src) (hs.chan_afterScan hp _ _),
    rfl, rfl, _, rfl⟩

end Sys2Proof.Machine

/-! ## A frame sent and received (43_scanner.md R217 to R221, R226; 45_framer.md R271, R274, R276) -/

namespace Sys2Proof.Machine

/-! ### Frames -/

theorem frame_length (source dest : Byte) (data : List Byte) :
    (frame source dest data).length = data.length + frameOverhead := by
  simp [frame, frameOverhead]

theorem drop_headerSize_frame (source dest : Byte) (data : List Byte) :
    (frame source dest data).drop headerSize = data ++ [crc8 data] :=
  rfl

section
variable {data : List Byte} (small : data.length < 256) (source dest : Byte)
include small

/-- The length byte is exact (45_framer.md R274). -/
theorem headerLen_frame : headerLen (frame source dest data) = data.length :=
  (BitVec.toNat_ofNat _ _).trans (Nat.mod_eq_of_lt small)

theorem frameSize_frame : frameSize (frame source dest data) = (frame source dest data).length := by
  rw [frameSize, headerLen_frame small, frame_length]

/-- The frame passes the header check at its destination (43_scanner.md R214). -/
theorem headerValid_frame {cfg : Config} (entries : data.length % entrySize = 0)
    (fits : (frame source dest data).length ≤ cfg.mxPacketSize) :
    headerValid cfg dest (frame source dest data) = true := by
  rw [headerValid, frameSize_frame small, headerLen_frame small, entries, decide_eq_true fits]
  simp [frame, byteAt]

/-- The frame passes the CRC check (43_scanner.md R217). -/
theorem crcAgrees_frame : crcAgrees (frame source dest data) = true := by
  have segment : dataSegment (frame source dest data) = data := by
    rw [dataSegment, drop_headerSize_frame, headerLen_frame small, List.take_left]
  have last : (frame source dest data)[headerSize + headerLen (frame source dest data)]? =
      some (crc8 data) := by
    rw [← List.getElem?_drop, drop_headerSize_frame, headerLen_frame small,
      List.getElem?_concat_length]
  rw [crcAgrees_iff last, segment]

end

/-! ### The entries of a frame -/

theorem entriesBytes_length (es : List (Half × Half)) :
    (entriesBytes es).length = entrySize * es.length := by
  induction es with
  | nil => rfl
  | cons e es ih => exact (congrArg (· + entrySize) ih).trans (Nat.mul_succ _ _).symm

theorem drop_entriesBytes (es : List (Half × Half)) (k : Nat) :
    (entriesBytes es).drop (entrySize * k) = entriesBytes (es.drop k) := by
  induction k generalizing es with
  | zero => rfl
  | succ k ih =>
    cases es with
    | nil => simp [entriesBytes]
    | cons e es => exact ih es

/-- The four bytes at an entry's place are its index and its value (30_encoding.md R111). -/
theorem frameEntry_of_drop {f l : List Byte} {k : Nat} {e : Half × Half}
    (h : f.drop (headerSize + entrySize * k) = entryBytes e.1 e.2 ++ l) : frameEntry f k = e := by
  have byte (i : Nat) : byteAt f (headerSize + entrySize * k + i) =
      byteAt (entryBytes e.1 e.2 ++ l) i := by
    rw [← h, byteAt, byteAt, List.getD_eq_getElem?_getD, List.getD_eq_getElem?_getD,
      List.getElem?_drop]
  exact Prod.ext
    ((congrArg₂ join (byte 0) (byte 1)).trans (join_msb_lsb e.1))
    ((congrArg₂ join (byte 2) (byte 3)).trans (join_msb_lsb e.2))

/-- The entries of a frame are the entries that were staged (45_framer.md R271). -/
theorem frameEntries_frame {es : List (Half × Half)} (small : (entriesBytes es).length < 256)
    (source dest : Byte) : frameEntries (frame source dest (entriesBytes es)) = es := by
  have number : headerLen (frame source dest (entriesBytes es)) / entrySize = es.length := by
    rw [headerLen_frame small, entriesBytes_length]
    exact Nat.mul_div_cancel_left _ (by decide)
  refine List.ext_getElem (by simp [frameEntries, number]) fun k _ hk => ?_
  simp only [frameEntries, List.getElem_map, List.getElem_range]
  refine frameEntry_of_drop (l := entriesBytes (es.drop (k + 1)) ++ [crc8 (entriesBytes es)]) ?_
  have inside : entrySize * k ≤ (entriesBytes es).length :=
    entriesBytes_length es ▸ Nat.mul_le_mul_left _ (Nat.le_of_lt hk)
  rw [← List.drop_drop, drop_headerSize_frame, List.drop_append_of_le_length inside,
    drop_entriesBytes, List.drop_eq_getElem_cons hk]
  rfl

/-- The scanner's effect of an entry (43_scanner.md R219) in the words of the statements. -/
theorem commitEntry_eq_applyEntry (cfg : Config) (p : Nat) :
    commitEntry cfg p = applyEntry cfg.arraySize p := by
  funext arr e
  simp [commitEntry, applyEntry, entryAt, Entry.writableBy, Entry.written, u16]

/-! ### The receiver -/

/-- A source for which there is room is drained whole (43_scanner.md R211). -/
theorem drain_of_room {m : Nat} {r : RingBuf} {l : List Byte} (h : r.Wf m)
    (room : (r.q ++ l).length ≤ r.cap) : (drain r l).1.q = r.q ++ l ∧ (drain r l).2 = [] := by
  obtain ⟨-, -, content, left⟩ := drain_spec l h
  rw [List.length_append, RingBuf.q_length] at room
  have all : l.length ≤ r.cap - r.count := by omega
  rw [content, left, List.take_of_length_le all, List.drop_of_length_le all]
  exact ⟨rfl, rfl⟩

section
variable {cfg : Config} {addr : Byte} {p : Nat}

/-- A complete frame that passes both checks is committed by a pass (43_scanner.md R219). -/
theorem scanPass_of_accepted {x : ScanWork} (header : headerSize ≤ x.ring.q.length)
    (valid : headerValid cfg addr x.ring.q = true)
    (complete : frameSize x.ring.q ≤ x.ring.q.length)
    (agrees : crcAgrees x.ring.q = true) : scanPass cfg addr p x = (true, x.commit cfg p) := by
  rw [scanPass, if_neg (Nat.not_lt.mpr header), valid, if_neg (by decide),
    if_neg (Nat.not_lt.mpr complete), if_pos agrees]

theorem scanLoop_of_empty {x : ScanWork} (empty : x.ring.q = []) (n : Nat) :
    scanLoop cfg addr p n x = x := by
  cases n with
  | zero => rfl
  | succ n => rw [scanLoop, if_pos ((RingBuf.q_eq_nil _).mp empty)]

theorem dropWhile_of_header0 {q : List Byte} (h : q[0]? = some header0) :
    q.dropWhile (· != header0) = q := by
  obtain ⟨l, rfl⟩ := List.head?_eq_some_iff.mp (List.head?_eq_getElem? ▸ h)
  exact List.dropWhile_cons_of_neg (by simp)

/-- One good frame behind bytes none of which is `HEADER_0`: one commit, and nothing is left. -/
theorem scanBuffer_of_frame {r : RingBuf} {garbage f : List Byte} (arr : List Entry)
    (content : r.q = garbage ++ f) (noise : ∀ x ∈ garbage, x ≠ header0)
    (valid : headerValid cfg addr f = true) (whole : frameSize f = f.length)
    (agrees : crcAgrees f = true) :
    let w := scanBuffer cfg addr p r arr
    w.ring.q = [] ∧ w.array = commitFrame cfg p arr f ∧ w.frames = 1 := by
  have header : headerSize ≤ f.length := by
    rw [← whole, frameSize]
    exact Nat.le_trans (by decide : headerSize ≤ frameOverhead) (Nat.le_add_left _ _)
  obtain ⟨start, -⟩ := (headerValid_iff header).mp valid
  have sync : (synchronize r).q = f := by
    rw [synchronize_q, content, List.dropWhile_append_of_pos (by simpa using noise),
      dropWhile_of_header0 start]
  have nonempty : r.q ≠ [] := by
    intro empty
    obtain ⟨-, none⟩ := List.append_eq_nil_iff.mp (content.symm.trans empty)
    rw [none] at start
    cases start
  subst sync
  have pass := scanPass_of_accepted (p := p)
    (x := { ring := synchronize r, array := arr, frames := 0 }) header valid whole.le agrees
  have gone : (ScanWork.commit cfg p
      { ring := synchronize r, array := arr, frames := 0 }).ring.q = [] := by
    rw [commit_q, whole, List.drop_length]
  have run := (scanLoop_of_goesOn (x := { ring := r, array := arr, frames := 0 }) nonempty pass
    r.count).trans (scanLoop_of_empty gone _)
  rw [scanBuffer, run]
  exact ⟨gone, rfl, rfl⟩

end

/-! ### The sender -/

/-- `SEND` behind its checks (45_framer.md R276). -/
theorem exec_send_of_valid {s : State} {p : Byte} (hp : s.PortOk p) (valid : s.addrValid = true)
    (dest : Byte) : exec (.send p dest) s =
      .next (((s.setChan p.toNat ((s.chan p.toNat).emit (frame s.localAddr dest s.stage))).setStage
        []).respond .ok 0) := by
  change guarded (.or _ s.addrFault) s _ = _
  rw [guarded_of_portOk hp, State.addrFault, valid]
  rfl

/-- What a `SEND` adds to the sink is the frame of the staged bytes. -/
theorem eq_frame_of_sent {a a' : State} {p dest : Byte} {f : List Byte} (ha : a.Inv)
    (hp : a.PortOk p) (valid : a.addrValid = true) (sent : exec (.send p dest) a = .next a')
    (sink : (a'.chan p.toNat).snk = (a.chan p.toNat).snk ++ f) :
    f = frame a.localAddr dest a.stage := by
  obtain rfl := Host.Outcome.next.inj ((exec_send_of_valid hp valid dest).symm.trans sent)
  rw [State.chan_respond, State.chan_setStage,
    State.chan_setChan_self _ _ (ha.chans_length ▸ hp.1)] at sink
  exact (List.append_cancel_left sink).symm

/-- Settles O48: what is sent is a frame that passes both checks at its destination; the drain moves
all of the source, and the one commit takes everything. -/
theorem sentFrameIsCommittedByTheReceiver : Obligations.SentFrameIsCommittedByTheReceiver := by
  rintro a a' b p p' dest es garbage f ha hp aValid stage sent sink hb hp' bValid rfl empty source
    noise fits room
  have isFrame := eq_frame_of_sent ha hp aValid sent sink
  have small : a.stage.length < 256 := by
    obtain ⟨-, -, -, -, ⟨-, stageFits⟩, -⟩ := ha
    omega
  rw [stage] at isFrame small
  subst isFrame
  have entries : (entriesBytes es).length % entrySize = 0 :=
    entriesBytes_length es ▸ Nat.mul_mod_right _ _
  obtain ⟨content, left⟩ := drain_of_room (l := (b.chan p'.toNat).src) (hb.ring_wf hp')
    (by rw [empty, source, List.nil_append, List.length_append]; exact room)
  rw [empty, List.nil_append] at content
  obtain ⟨nothing, array, one⟩ := scanBuffer_of_frame (p := p'.toNat) b.array
    (content.trans source) noise (headerValid_frame small _ _ entries fits)
    (frameSize_frame small _ _) (crcAgrees_frame small _ _)
  refine ⟨_, exec_scan_eq_afterScan hp' bValid, ?response, ?buffer, ?source, ?array⟩
  case response => exact congrArg (fun n => some (Response.mk .ok (countResult n))) one
  case buffer => rw [hb.chan_afterScan hp', nothing]
  case source => rw [hb.chan_afterScan hp', left]
  case array =>
    refine array.trans ?_
    rw [commitFrame, frameEntries_frame small, commitEntry_eq_applyEntry]

end Sys2Proof.Machine

/-! ## Host commands on the shared array (44_access_control.md R250 to R254) -/

namespace Sys2Proof.Machine

/-! ### What clears a dirty flag (R251) -/

/-- The dirty column of the access table (10_state.md R50). -/
theorem scan_or_rdArray_of_dirty_mem_mayWrite {i : Instr} (h : .dirty ∈ mayWrite i) :
    (∃ p, i = .scan p) ∨ ∃ a, i = .rdArray a := by
  cases i <;> simp_all [mayWrite]

/-- Received entries only set dirty flags (43_scanner.md R219). -/
theorem Commits.dirty {cfg : Config} {p : Nat} {arr arr' : List Entry} (h : Commits cfg p arr arr')
    {j : Nat} (flag : (entryAt arr j).dirty = true) : (entryAt arr' j).dirty = true := by
  rcases h.entry j with same | ⟨-, v, written⟩
  · rw [same]; exact flag
  · rw [written]; rfl

/-- Of the commands, only `RD_ARRAY` of its index clears a dirty flag. -/
theorem Effect.rdArray_of_dirty_cleared {i : Instr} {s t : State} {j : Nat} (h : Effect i s t)
    (flag : (s.entry j).dirty = true) (cleared : (t.entry j).dirty ≠ true) :
    ∃ a, i = .rdArray a ∧ a.toNat = j := by
  have written : .dirty ∈ mayWrite i := by
    by_contra notWritten
    exact cleared ((h.same (e := .dirty) notWritten j).trans flag)
  rcases scan_or_rdArray_of_dirty_mem_mayWrite written with ⟨p, rfl⟩ | ⟨a, rfl⟩
  · obtain ⟨-, -, rfl⟩ := h
    exact absurd ((scanBuffer_commits _ _ _ _ _).dirty flag) cleared
  · obtain ⟨-, rfl⟩ := h
    rw [State.entry_setEntry] at cleared
    split_ifs at cleared with named
    · exact ⟨a, rfl, named.1⟩
    · exact absurd flag cleared

/-- Settles O21: a step changes the array by the reset event or by a command's effect, and of the
commands `SCAN` only sets flags and `RD_ARRAY` writes the flag of its index alone. -/
theorem dirtyFlagsClearOnlyOnReadOrReset : Obligations.DirtyFlagsClearOnlyOnReadOrReset := by
  intro s t j h flag cleared
  have cleared := ne_true_of_eq_false cleared
  rcases step_array_cases h with same | ⟨reset, -⟩ | ⟨w, i, u, head, decoded, effect, array⟩
  · exact absurd flag (State.entry_congr same j ▸ cleared)
  · exact .inl reset
  · rw [State.entry_congr array] at cleared
    obtain ⟨a, rfl, named⟩ := effect.rdArray_of_dirty_cleared flag cleared
    exact .inr ⟨w, a, head, decoded, named⟩

/-! ### The commands (R250, R252, R254) -/

theorem indexFault_of_lt {s : State} {i : Nat} (h : i < s.cfg.arraySize) : indexFault i s = none := by
  rw [indexFault, decide_eq_true h, faultUnless_true]

theorem indexFault_of_le {s : State} {i : Nat} (h : s.cfg.arraySize ≤ i) :
    indexFault i s = some .indexRange := by
  rw [indexFault, decide_eq_false (Nat.not_lt.mpr h), faultUnless_false]

/-- A command whose only check is its index faults on an index out of range. -/
theorem faultsWith_indexRange_of_guarded {i : Instr} {a : Half} {s : State} {k : Answer}
    (h : exec i s = guarded (indexFault a.toNat s) s k) (outOfRange : s.cfg.arraySize ≤ a.toNat) :
    FaultsWith i s .indexRange := by
  rw [FaultsWith, h, indexFault_of_le outOfRange, guarded_some]

/-- A command whose only check is its index does what it does on an index in range. -/
theorem exec_eq_of_guarded_indexFault {i : Instr} {a : Half} {s : State} {k : Answer}
    (h : exec i s = guarded (indexFault a.toNat s) s k) (inRange : a.toNat < s.cfg.arraySize) :
    exec i s = k := by
  rw [h, indexFault_of_lt inRange, guarded_none]

/-- Settles O51: behind the index check, the entry is answered and acknowledged. -/
theorem rdArrayReadsAndAcknowledges : Obligations.RdArrayReadsAndAcknowledges :=
  ⟨decodesAs_of_fields fun _ _ _ => rfl, fun _ _ =>
    ⟨faultsWith_indexRange_of_guarded rfl, exec_eq_of_guarded_indexFault rfl⟩⟩

/-- Settles O52: behind the index check, the flag is answered. -/
theorem rdFlagPeeksTheFlag : Obligations.RdFlagPeeksTheFlag :=
  ⟨decodesAs_of_fields fun _ _ _ => rfl, fun _ _ =>
    ⟨faultsWith_indexRange_of_guarded rfl, exec_eq_of_guarded_indexFault rfl⟩⟩

/-- On an open channel `LIMIT` is its test of the index (R254). -/
theorem exec_limit_of_portOk {s : State} {p : Byte} (hp : s.PortOk p) (i : Half) :
    exec (.limit i p) s = if i.toNat < s.cfg.arraySize then
      .next ((s.setEntry i.toNat ((s.entry i.toNat).ownedBy p.toNat)).answered 0)
    else .next (s.answered 0) := by
  change guarded (s.portFault (chanNo p)) s _ = _
  rw [hp.portFault]
  rfl

/-- Settles O53: behind the channel check, the two sides of the test of the index. -/
theorem limitSetsTheOwner : Obligations.LimitSetsTheOwner :=
  ⟨decodesAs_of_fields fun _ _ _ => rfl, fun i _ _ =>
    ⟨portChecks_of_portFault rfl,
      fun hp outOfRange => (exec_limit_of_portOk hp i).trans (if_neg (Nat.not_lt.mpr outOfRange)),
      fun hp inRange => (exec_limit_of_portOk hp i).trans (if_pos inRange)⟩⟩

end Sys2Proof.Machine

/-! ## The packet framer (45_framer.md R270 to R277) -/

namespace Sys2Proof.Machine

/-! ### Staging (R270 to R273) -/

theorem msb_eq_ofNat (v : Half) : msb v = BitVec.ofNat 8 (v.toNat / 256) := by
  rw [← toNat_highByte, BitVec.ofNat_toNat, BitVec.setWidth_eq]; rfl

theorem lsb_eq_ofNat (v : Half) : lsb v = BitVec.ofNat 8 (v.toNat % 256) := by
  rw [← toNat_lowByte, BitVec.ofNat_toNat, BitVec.setWidth_eq]; rfl

/-- The bytes of an entry as arithmetic (R271). -/
theorem entryBytes_eq_ofNat (i v : Half) :
    entryBytes i v = [BitVec.ofNat 8 (i.toNat / 256), BitVec.ofNat 8 (i.toNat % 256),
      BitVec.ofNat 8 (v.toNat / 256), BitVec.ofNat 8 (v.toNat % 256)] := by
  rw [entryBytes, msb_eq_ofNat, lsb_eq_ofNat, msb_eq_ofNat, lsb_eq_ofNat]

/-- Beyond `STAGE_CAP` a `QUEUE` is refused (R272). -/
theorem exec_queue_of_full {s : State} (full : s.stage.length + entrySize > stageCap s.cfg)
    (i v : Half) : exec (.queue i v) s = .next (s.respond .stageFull 0) :=
  if_pos full

/-- Within `STAGE_CAP` a `QUEUE` stages its entry (R270). -/
theorem exec_queue_of_room {s : State} (room : s.stage.length + entrySize ≤ stageCap s.cfg)
    (i v : Half) :
    exec (.queue i v) s = .next ((s.setStage (s.stage ++ entryBytes i v)).answered 0) :=
  if_neg (Nat.not_lt.mpr room)

/-- Settles O54: the two sides of the test of `STAGE_CAP`, the staged entry as arithmetic. -/
theorem queueStagesAnEntryOrRefuses : Obligations.QueueStagesAnEntryOrRefuses :=
  ⟨decodesAs_of_fields fun _ _ _ => rfl, fun i v _ =>
    ⟨fun full => exec_queue_of_full full i v,
      fun room => entryBytes_eq_ofNat i v ▸ exec_queue_of_room room i v⟩⟩

/-- Settles O55: the fields of the words, and the meaning is its next state. -/
theorem clearPktEmptiesTheStage : Obligations.ClearPktEmptiesTheStage :=
  ⟨decodesAs_of_fields fun _ _ _ => rfl, fun _ => rfl⟩

/-! ### Sending (R274 to R277) -/

/-- The words of `SEND` decode by their fields (30_encoding.md R102, `A8`). -/
theorem decodesAs_send :
    DecodesAs 0x62 (fun _ a b => decide (a.toNat < 256) && b == 0)
      (fun p a _ => .send p (a.setWidth 8)) :=
  decodesAs_of_fields fun p a b => by
    rw [← highByte_beq_zero, ← lowByte_eq_setWidth]
    rfl

/-- `SEND` on an open channel faults while no address is set (60_exceptions.md R312). -/
theorem faultsWith_send_notInit {s : State} {p : Byte} (hp : s.PortOk p)
    (unset : s.addrValid = false) (dest : Byte) : FaultsWith (.send p dest) s .notInit := by
  change guarded (.or _ s.addrFault) s _ = _
  rw [guarded_of_portOk hp, State.addrFault, unset, faultUnless_false, guarded_some]

/-- Settles O56: the checks in their order; behind them the frame, whose length byte is exact because
the invariant keeps fewer than 256 bytes staged, and a multiple of 4 because it keeps whole entries. -/
theorem sendEmitsTheFrame : Obligations.SendEmitsTheFrame := by
  refine ⟨decodesAs_send, fun p dest s => ⟨portChecks_of_guarded (more := s.addrFault) rfl,
    fun hp unset => faultsWith_send_notInit hp unset dest, fun hp valid inv => ?_⟩⟩
  obtain ⟨-, -, -, -, ⟨whole, fits⟩, -⟩ := inv
  have small : s.stage.length < 256 := by omega
  have exactLength : (BitVec.ofNat 8 s.stage.length).toNat = s.stage.length :=
    headerLen_frame small s.localAddr dest
  exact ⟨_, exactLength, exactLength.symm ▸ whole, exec_send_of_valid hp valid dest⟩

end Sys2Proof.Machine

/-! ## Control commands (46_control.md R290 to R298) -/

namespace Sys2Proof.Machine

/-- Settles O25: the fields of the words, and the meaning is its next state. -/
theorem nopAnswersZero : Obligations.NopAnswersZero :=
  ⟨decodesAs_of_fields fun _ _ _ => rfl, fun _ => rfl⟩

/-- Settles O26: the fields of the words, the address in the byte of its field, and the meaning is
its next state. -/
theorem initSetsOnlyTheAddress : Obligations.InitSetsOnlyTheAddress := by
  refine ⟨decodesAs_of_fields fun p a b => ?_, fun _ _ => rfl⟩
  rw [← highByte_beq_zero, ← lowByte_eq_setWidth]
  rfl

/-! ### Opening a channel (R294) -/

section
variable {s : State} {p : Nat}

theorem openFault_of_badPort (absent : s.cfg.nports ≤ p) (c : Nat) :
    openFault p c s = some .badPort := by
  rw [openFault, State.portNumberFault, decide_eq_false (Nat.not_lt.mpr absent)]
  rfl

/-- On an existing channel the checks are that it is closed and then the capacity. -/
theorem openFault_of_exists (existing : p < s.cfg.nports) (c : Nat) :
    openFault p c s = (faultUnless (!(s.chan p).isOpen) .portOpen).or
      (faultUnless (1 ≤ c && c ≤ s.cfg.rbMaxCap) .badCapacity) := by
  rw [openFault, State.portNumberFault, decide_eq_true existing, faultUnless_true, Option.none_or]

theorem openFault_of_open (existing : p < s.cfg.nports) (opened : (s.chan p).isOpen = true)
    (c : Nat) : openFault p c s = some .portOpen := by
  rw [openFault_of_exists existing, opened]
  rfl

/-- On an existing closed channel the one check left is the capacity. -/
theorem openFault_of_closed (existing : p < s.cfg.nports) (closed : (s.chan p).isOpen = false)
    (c : Nat) :
    openFault p c s = faultUnless (1 ≤ c && c ≤ s.cfg.rbMaxCap) .badCapacity := by
  rw [openFault_of_exists existing, closed]
  rfl

theorem openFault_of_badCapacity {c : Nat} (existing : p < s.cfg.nports)
    (closed : (s.chan p).isOpen = false) (bad : c = 0 ∨ s.cfg.rbMaxCap < c) :
    openFault p c s = some .badCapacity := by
  have fails : (decide (1 ≤ c) && decide (c ≤ s.cfg.rbMaxCap)) = false := by
    rw [Bool.and_eq_false_iff, decide_eq_false_iff_not, decide_eq_false_iff_not]
    omega
  rw [openFault_of_closed existing closed, fails, faultUnless_false]

theorem openFault_of_goodCapacity {c : Nat} (existing : p < s.cfg.nports)
    (closed : (s.chan p).isOpen = false) (pos : 1 ≤ c) (le : c ≤ s.cfg.rbMaxCap) :
    openFault p c s = none := by
  rw [openFault_of_closed existing closed, decide_eq_true pos, decide_eq_true le]
  rfl

end

/-- `PORT_OPEN` faults with what its checks find. -/
theorem faultsWith_portOpen {s : State} {p : Byte} {c : Half} {f : FaultCode}
    (h : openFault p.toNat c.toNat s = some f) : FaultsWith (.portOpen p c) s f := by
  change guarded (openFault p.toNat c.toNat s) s _ = _
  rw [h, guarded_some]

/-- Behind its checks `PORT_OPEN` opens the channel with a fresh buffer. -/
theorem exec_portOpen_of_passes {s : State} {p : Byte} {c : Half}
    (h : openFault p.toNat c.toNat s = none) :
    exec (.portOpen p c) s = .next (((s.setChan p.toNat { s.chan p.toNat with
      isOpen := true, ring := RingBuf.fresh s.draws c.toNat }).nextDraw).answered 0) := by
  change guarded (openFault p.toNat c.toNat s) s _ = _
  rw [h]
  rfl

/-- Settles O27: the checks in their order; behind them the fresh buffer, which has a slot for each
unit of the capacity. -/
theorem portOpenMakesAnEmptyBuffer : Obligations.PortOpenMakesAnEmptyBuffer :=
  ⟨decodesAs_of_fields fun _ _ _ => rfl, fun _ c s =>
    ⟨fun absent => faultsWith_portOpen (openFault_of_badPort absent _),
      fun existing opened => faultsWith_portOpen (openFault_of_open existing opened _),
      fun existing closed bad => faultsWith_portOpen (openFault_of_badCapacity existing closed bad),
      fun existing closed pos le => ⟨_, _, RingBuf.fresh_slot_length s.draws c.toNat,
        exec_portOpen_of_passes (openFault_of_goodCapacity existing closed pos le)⟩⟩⟩

/-! ### Closing a channel and reading the fault latch (R296 to R298) -/

/-- Settles O28: behind the channel check, the channel is closed and its buffer emptied. -/
theorem portCloseDiscardsTheBuffer : Obligations.PortCloseDiscardsTheBuffer := by
  refine ⟨decodesAs_of_fields fun _ _ _ => rfl, fun p s =>
    ⟨portChecks_of_portFault rfl, fun hp => ?_⟩⟩
  change guarded (s.portFault (chanNo p)) s _ = _
  rw [hp.portFault]
  rfl

/-- A latch whose hardwired bits are zero is read as it is (10_state.md R35). -/
theorem latchRead_eq_self {v : Half} (hardwired : v &&& ~~~faultImplemented = 0) :
    latchRead v = v := by
  have full : faultImplemented ||| ~~~faultImplemented = BitVec.allOnes 16 := by decide
  calc v &&& faultImplemented
    _ = v &&& faultImplemented ||| v &&& ~~~faultImplemented := by
      rw [hardwired]; exact BitVec.or_zero.symm
    _ = v := by rw [← BitVec.and_or_distrib_left, full, BitVec.and_allOnes]

/-- Settles O29: the hardwired bits being zero, the masked read answers the latch. -/
theorem rdFaultReturnsTheLatch : Obligations.RdFaultReturnsTheLatch := by
  refine ⟨decodesAs_of_fields fun _ _ _ => rfl, fun s hardwired => ?_⟩
  change Host.Outcome.next (s.answered (latchRead s.faultstat)) = _
  rw [latchRead_eq_self hardwired]

end Sys2Proof.Machine

/-! ## Faults (60_exceptions.md R312 to R317) -/

namespace Sys2Proof

/-- A word has the opcode of a row exactly where its opcode field is the row's. -/
theorem OpRow.hasOpcodeOf_iff {r : OpRow} (hr : r ∈ opRows) (w : CmdWord) :
    r.hasOpcodeOf w = true ↔ opcOf w = opcOf r.pat := by
  obtain ⟨-, patFields⟩ := opRows_opcode r hr
  have opcMask : 0xFF0000000000#48 = cmdWord 255#8 0 0 0 := by decide
  rw [OpRow.hasOpcodeOf, beq_iff_eq]
  conv_lhs => rw [← cmdWord_fields w, opcMask, patFields, cmdWord_and, cmdWord_inj, byte_and_ones]
  simp

theorem opcodeLegal_iff (w : CmdWord) :
    opcodeLegal w = true ↔ ∃ r ∈ opRows, opcOf w = opcOf r.pat :=
  List.any_eq_true.trans
    (exists_congr fun _ => and_congr_right fun hr => OpRow.hasOpcodeOf_iff hr w)

theorem wordWellFormed_iff (w : CmdWord) :
    wordWellFormed w = true ↔ ∃ r ∈ opRows, w &&& r.mask = r.pat :=
  List.any_eq_true.trans (exists_congr fun _ => and_congr_right fun _ => beq_iff_eq)

end Sys2Proof

namespace Sys2Proof.Machine

/-! ### What a fault leaves (R314 to R316) -/

theorem State.faulted_response_eq_some {s : State} {f g : FaultCode} {v : Half}
    (h : (s.faulted g).response = some { status := .fault f, result := v }) : g = f :=
  Status.fault.inj (congrArg Response.status (Option.some.inj h))

/-- A command that passes its checks never answers with a fault's code. -/
theorem Answers.faults_eq_false {st : Status} {v : Half} (h : Answers st v) :
    Response.faults { status := st, result := v } = false := by
  rcases h with rfl | ⟨rfl, -⟩ <;> rfl

theorem exec_eq_faulted {i : Instr} {s t : State} {f : FaultCode} {v : Half}
    (h : exec i s = .next t) (resp : t.response = some { status := .fault f, result := v }) :
    t = s.faulted f := by
  rcases exec_next h with ⟨g, rfl⟩ | ⟨u, st, w, rfl, -, answers⟩
  · rw [State.faulted_response_eq_some resp]
  · obtain rfl : st = .fault f := congrArg Response.status (Option.some.inj resp)
    cases answers.faults_eq_false

/-- Settles O12: a command that passes its checks answers no fault's code, and a rejected word
answers the code of the one fault it takes. -/
theorem faultChangesOnlyTheLatch : Obligations.FaultChangesOnlyTheLatch := by
  refine ⟨fun _ _ _ _ _ => exec_eq_faulted, fun s t rest w f v hs h resp => ?_⟩
  cases decoded : decode w with
  | ok i =>
    rw [stepRunsTheDecodedCommand s rest w i hs decoded] at h
    exact exec_eq_faulted h resp
  | error r =>
    obtain rfl := Host.Outcome.next.inj ((step_reject hs decoded).symm.trans h)
    rw [State.faulted_response_eq_some resp]

/-! ### The order of the checks (R312) -/

/-- The causes after the channel checks: local address, then operand range (R312 steps 5 and 6). -/
def causesAfterPort : List FaultCode := [.notInit, .badCapacity, .rbEmpty, .peekRange, .indexRange]

/-- The first cause after the channel checks that a command has. -/
def faultAfterPort (i : Instr) (s : State) : Option FaultCode :=
  causesAfterPort.find? (hasCause i s)

/-- Looking for the first cause is making the checks one after the other. -/
theorem find?_cons_hasCause (i : Instr) (s : State) (f : FaultCode) (fs : List FaultCode) :
    (f :: fs).find? (hasCause i s) =
      (faultUnless (!hasCause i s f) f).or (fs.find? (hasCause i s)) := by
  rw [List.find?_cons]
  cases hasCause i s f <;> rfl

theorem firstFault_eq_or (i : Instr) (s : State) : firstFault i s =
    (faultUnless (!hasCause i s .badPort) .badPort).or
      ((faultUnless (!hasCause i s .portClosed) .portClosed).or
        ((faultUnless (!hasCause i s .portOpen) .portOpen).or (faultAfterPort i s))) := by
  change List.find? _ (.illegalOpcode :: .reserved :: .badPort :: .portClosed :: .portOpen ::
    causesAfterPort) = _
  simp only [find?_cons_hasCause]
  rfl

theorem faultAfterPort_eq_or (i : Instr) (s : State) : faultAfterPort i s =
    (faultUnless (!hasCause i s .notInit) .notInit).or
      ((faultUnless (!hasCause i s .badCapacity) .badCapacity).or
        ((faultUnless (!hasCause i s .rbEmpty) .rbEmpty).or
          ((faultUnless (!hasCause i s .peekRange) .peekRange).or
            (faultUnless (!hasCause i s .indexRange) .indexRange)))) := by
  simp only [faultAfterPort, causesAfterPort, find?_cons_hasCause, List.find?_nil, Option.or_none]

theorem not_decide_le (m n : Nat) : (!decide (m ≤ n)) = decide (n < m) :=
  decide_not.symm.trans (decide_eq_decide.mpr Nat.not_le)

/-- A command that needs its channel open makes the channel check before its others. -/
theorem firstFault_of_port {i : Instr} {p : Byte} (named : channelOf i = some p.toNat)
    (needsOpen : needsClosed i = false) (s : State) :
    firstFault i s = (s.portFault p.toNat).or (faultAfterPort i s) := by
  rw [firstFault_eq_or, State.portFault, State.portNumberFault, ← not_decide_le, Option.or_assoc]
  simp only [hasCause, named, needsOpen, Option.any_some, Bool.not_false, Bool.true_and,
    Bool.not_not, Bool.false_and, faultUnless_true, Option.none_or]

/-- The checks of `PORT_OPEN` (46_control.md R294). -/
theorem firstFault_portOpen (p : Byte) (c : Half) (s : State) :
    firstFault (.portOpen p c) s = openFault p.toNat c.toNat s := by
  have capacity : (!(decide (c.toNat = 0) || decide (s.cfg.rbMaxCap < c.toNat))) =
      (decide (1 ≤ c.toNat) && decide (c.toNat ≤ s.cfg.rbMaxCap)) := by
    rw [Bool.eq_iff_iff]
    simp [Nat.one_le_iff_ne_zero]
  rw [firstFault_eq_or, faultAfterPort_eq_or, openFault, State.portNumberFault, ← not_decide_le,
    Option.or_assoc, ← capacity]
  simp [hasCause, channelOf, needsClosed, needsAddr]

/-! ### Behind the checks -/

/-- What a command answers that passes its checks: no fault. -/
def Passed (k : Answer) : Prop :=
  ∃ (t : State) (st : Status) (v : Half), k = .next (t.respond st v) ∧ Answers st v

theorem Passed.ok (t : State) (v : Half) : Passed (.next (t.respond .ok v)) :=
  ⟨t, .ok, v, rfl, .inl rfl⟩

theorem Passed.ite {a : Prop} [Decidable a] {k l : Answer} (hk : Passed k) (hl : Passed l) :
    Passed (if a then k else l) := by
  split_ifs
  · exact hk
  · exact hl

/-- The command makes the checks of R312, in their order, and then answers without a fault. -/
def ChecksFirst (i : Instr) (s : State) : Prop :=
  ∃ k, exec i s = guarded (firstFault i s) s k ∧ Passed k

section
variable {i : Instr} {p : Byte} {s : State} {k : Answer}

theorem ChecksFirst.of_eq {check : Option FaultCode} (same : firstFault i s = check)
    (run : exec i s = guarded check s k) (passed : Passed k) : ChecksFirst i s :=
  ⟨k, same ▸ run, passed⟩

/-- A command with the channel check and one more. -/
theorem ChecksFirst.of_port_and {more : Option FaultCode} (named : channelOf i = some p.toNat)
    (needsOpen : needsClosed i = false) (after : faultAfterPort i s = more)
    (run : exec i s = guarded ((s.portFault (chanNo p)).or more) s k) (passed : Passed k) :
    ChecksFirst i s :=
  .of_eq (after ▸ firstFault_of_port named needsOpen s) run passed

/-- A command with the channel check alone. -/
theorem ChecksFirst.of_port (named : channelOf i = some p.toNat)
    (needsOpen : needsClosed i = false) (after : faultAfterPort i s = none)
    (run : exec i s = guarded (s.portFault (chanNo p)) s k) (passed : Passed k) :
    ChecksFirst i s :=
  .of_port_and named needsOpen after (run.trans (by rw [Option.or_none])) passed

end

/-- Every command makes the checks of R312 that apply to it, in their order. -/
theorem exec_checksFirst (i : Instr) (s : State) : ChecksFirst i s := by
  cases i with
  | nop | init | rdFault | msbS | lsbS | msbU | lsbU | joinS | joinU | crcInit | crcByte | crcRead
  | clearPkt => exact .of_eq (check := none) rfl rfl (.ok _ _)
  | queue => exact .of_eq (check := none) rfl rfl (.ite ⟨_, _, _, rfl, .inr ⟨rfl, rfl⟩⟩ (.ok _ _))
  | portOpen p c => exact .of_eq (firstFault_portOpen p c s) rfl (.ok _ _)
  | portClose | rbSize | rbEmpty | rbFull => exact .of_port rfl rfl rfl rfl (.ok _ _)
  | rbPush | limit => exact .of_port rfl rfl rfl rfl (.ite (.ok _ _) (.ok _ _))
  | rbPop p =>
    refine .of_port_and (more := faultUnless (!decide ((s.chan p.toNat).ring.count = 0)) .rbEmpty)
      rfl rfl ?_ rfl (.ok _ _)
    simp [faultAfterPort_eq_or, hasCause, needsAddr]
  | rbPeek p a =>
    refine .of_port_and
      (more := faultUnless (decide (a.toNat < (s.chan p.toNat).ring.count)) .peekRange)
      rfl rfl ?_ rfl (.ok _ _)
    rw [← not_decide_le]
    simp [faultAfterPort_eq_or, hasCause, needsAddr]
  | scan | send =>
    refine .of_port_and (more := s.addrFault) rfl rfl ?_ rfl (.ok _ _)
    simp [faultAfterPort_eq_or, hasCause, needsAddr, State.addrFault]
  | rdArray a | rdFlag a =>
    refine .of_eq (check := indexFault a.toNat s) ?_ rfl (.ok _ _)
    rw [indexFault, ← not_decide_le]
    simp [firstFault_eq_or, faultAfterPort_eq_or, hasCause, channelOf, needsClosed, needsAddr]

/-- Settles O13: a word is rejected by its opcode or by its reserved bits, else it is a command,
which makes its checks first. -/
theorem firstFailingCheckIsReported : Obligations.FirstFailingCheckIsReported := by
  refine fun s rest w hs => ⟨fun illegal => ?illegal, fun legal illFormed => ?reserved,
    fun wellFormed => ?command⟩
  case illegal =>
    refine step_reject (r := .illegalOpcode) hs (decodeFields_of_no_row fun r hr opc => ?_)
    exact ne_true_of_eq_false illegal ((opcodeLegal_iff w).mpr ⟨r, hr, opc.symm⟩)
  case reserved =>
    obtain ⟨r, hr, opc⟩ := (opcodeLegal_iff w).mp legal
    refine nonzeroReservedBitsFault s rest w r hr opc (fun matched => ?_) hs
    exact ne_true_of_eq_false illFormed ((wordWellFormed_iff w).mpr ⟨r, hr, matched⟩)
  case command =>
    obtain ⟨i, decoded⟩ :=
      (commandsAreTheWordsOfTheMap w).mpr ((wordWellFormed_iff w).mp wellFormed)
    obtain ⟨k, run, t, st, v, rfl, answers⟩ := exec_checksFirst i { s with pending := rest }
    rw [← stepRunsTheDecodedCommand s rest w i hs decoded] at run
    refine ⟨i, decoded, fun f first => ?_, fun passes =>
      ⟨t.respond st v, ⟨st, v⟩, ?_, rfl, answers.faults_eq_false⟩⟩
    · rw [run, first, guarded_some]
    · rw [run, passes, guarded_none]

/-! ### The latch is not read (R317) -/

/-- Where the first answer is a next state, so is the second, and the two differ in the fault latch
alone. -/
def SameButLatch (a b : Answer) : Prop :=
  ∀ t, a = .next t → ∃ u, b = .next u ∧ u = { t with faultstat := u.faultstat }

theorem SameButLatch.next (t : State) (v : Half) :
    SameButLatch (.next t) (.next { t with faultstat := v }) := by
  rintro _ ⟨⟩
  exact ⟨_, rfl, rfl⟩

theorem SameButLatch.guarded {k k' : Answer} (check : Option FaultCode) (s : State) (v : Half)
    (h : SameButLatch k k') :
    SameButLatch (guarded check s k) (guarded check { s with faultstat := v } k') := by
  cases check with
  | none => exact h
  | some f => rw [guarded_some, guarded_some]; exact .next (s.faulted f) _

theorem SameButLatch.ite {a : Prop} [Decidable a] {k k' l l' : Answer} (hk : SameButLatch k k')
    (hl : SameButLatch l l') : SameButLatch (if a then k else l) (if a then k' else l') := by
  split_ifs
  · exact hk
  · exact hl

/-- A command other than `RD_FAULT` does the same whatever the latch holds. -/
theorem exec_sameButLatch {i : Instr} (notRead : i ≠ .rdFault) (s : State) (v : Half) :
    SameButLatch (exec i s) (exec i { s with faultstat := v }) := by
  cases i with
  | rdFault => exact absurd rfl notRead
  | nop | init | msbS | lsbS | msbU | lsbU | joinS | joinU | crcInit | crcByte | crcRead
  | clearPkt => exact .next _ v
  | queue => exact .ite (.next _ v) (.next _ v)
  | portOpen | portClose | rbPop | rbPeek | rbSize | rbEmpty | rbFull | scan | rdArray | rdFlag
  | send => exact .guarded _ s v (.next _ v)
  | rbPush | limit => exact .guarded _ s v (.ite (.next _ v) (.next _ v))

/-- Settles O15: no check and no meaning but that of `RD_FAULT` reads the latch. -/
theorem faultLatchDoesNotSteerCommands : Obligations.FaultLatchDoesNotSteerCommands :=
  fun _ s t v notRead => exec_sameButLatch notRead s v t

end Sys2Proof.Machine

/-! ## A header that stalls its channel (70_reset_and_hazards.md R355) -/

namespace Sys2Proof.Machine

/-- A full buffer takes nothing from its source (43_scanner.md R211). -/
theorem drain_of_full {r : RingBuf} (full : r.count = r.cap) (l : List Byte) :
    drain r l = (r, l) := by
  cases l with
  | nil => rfl
  | cons b l => exact if_neg (Nat.not_lt.mpr full.ge)

/-- A pass ends, and changes nothing, at a valid header whose frame is incomplete (43_scanner.md
R214, R216). -/
theorem scanPass_of_incomplete {cfg : Config} {addr : Byte} {p : Nat} {x : ScanWork}
    (header : headerSize ≤ x.ring.q.length) (valid : headerValid cfg addr x.ring.q = true)
    (incomplete : x.ring.q.length < frameSize x.ring.q) : scanPass cfg addr p x = (false, x) := by
  rw [scanPass, if_neg (Nat.not_lt.mpr header), valid, if_pos incomplete]
  rfl

/-- A scan of a buffer that starts with such a header changes nothing. -/
theorem scanBuffer_of_incomplete {cfg : Config} {addr : Byte} {p : Nat} {r : RingBuf}
    {arr : List Entry} {len : Byte} (valid : ValidHeader cfg addr r.q) (hlen : r.q[4]? = some len)
    (incomplete : r.count < len.toNat + frameOverhead) :
    scanBuffer cfg addr p r arr = { ring := r, array := arr, frames := 0 } := by
  have header : headerSize ≤ r.q.length := (List.getElem?_eq_some_iff.mp hlen).1
  have pass : scanPass cfg addr p { ring := r, array := arr, frames := 0 } = (false, _) :=
    scanPass_of_incomplete header ((headerValid_iff header).mpr valid) (by
      rw [RingBuf.q_length, frameSize, headerLen_eq hlen]; exact incomplete)
  have nonempty : r.count ≠ 0 := by
    rw [← r.q_length]
    exact Nat.ne_zero_of_lt header
  rw [scanBuffer, scanLoop_succ, if_neg nonempty, synchronize_of_header0 valid.1, pass]
  rfl

/-- A channel replaced by itself. -/
theorem State.setChan_chan (s : State) (p : Nat) : s.setChan p (s.chan p) = s := by
  have same : s.chans.set p (s.chan p) = s.chans := by
    by_cases hp : p < s.chans.length
    · simp [State.chan_def, hp]
    · exact List.set_eq_of_length_le (Nat.not_lt.mp hp)
  rw [State.setChan, same]

/-- Settles O49: the full buffer takes nothing from the source, and at once the loop stops at the
valid header, whose frame can never be complete. -/
theorem oversizedHeaderStallsTheChannel : Obligations.OversizedHeaderStallsTheChannel := by
  intro p len s _ hp valid header hlen full oversized
  rw [exec_scan_eq_afterScan hp valid, drain_of_full full,
    scanBuffer_of_incomplete header hlen (full ▸ oversized)]
  exact congrArg (fun t : State => Host.Outcome.next (t.answered 0)) (s.setChan_chan p.toNat)

end Sys2Proof.Machine
